-- ==== Sys2Proof/Word.lean ====
section
/-! DEFINITION. The word types of the TS8: what the manual counts in bits (chapters 8 to 11), and the numbers it gives
its ring pairs, lanes and inbound rings (0.6). Counts, marks, handles and positions are plain `Nat` elsewhere. -/

namespace Sys2Proof

/-- One byte of a record (chapter 11). -/
abbrev Byte := BitVec 8

/-- One 16-bit word sent to or received from a station (R44, R64). -/
abbrev StationWord := BitVec 16

/-- One 32-bit register of the window (R163); also the width of a result and of an event's detail (R148, R156). -/
abbrev Reg := BitVec 32

/-- One cell of a station lane: the level of its first half and that of its second, high as true (R176). -/
abbrev LineCell := Bool × Bool

/-- A count of STU that wraps at 32 bits: local time (R99), and the counters of an inbound ring (R83). -/
abbrev Count32 := BitVec 32

/-- A full host address (section 11.1). -/
abbrev HostAddr := BitVec 64

/-- One 64-byte command record (section 11.1) as one number: byte `i` stands at bits `8 i + 7` to `8 i`. -/
abbrev CommandRecord := BitVec 512

/-- Ring pairs are numbered 0 to 3 (0.6). -/
abbrev PairId := Fin 4

/-- Lanes are numbered 0 to 7 (0.6). -/
abbrev LaneId := Fin 8

/-- Inbound rings are numbered 0 to 15 (0.6). -/
abbrev RingId := Fin 16

end Sys2Proof
end

