-- ==== Sys2Proof/Syntax.lean ====
section
/-! DEFINITION. The commands and events of the TS8: one constructor for each row of spec/opcode_table.json, in the
table's order. A host command (rows EDIT_BEGIN to STOP, and BAD_OPCODE) carries no operand here: it is the step in which
the Command Processor takes the 64-byte record out of the holding place and executes it (R145), so its operands are the
bytes of that record, which FETCH_END brought in. The other rows carry what the outside gives them: the value written,
how a DMA request ended, the bits received. -/

namespace Sys2Proof

/-- How the DMA read of a command record ended (R144): with the 64 bytes read, or with an error. -/
inductive DmaRead where
  | data (record : CommandRecord)
  | error
  deriving DecidableEq, Repr

/-- How a DMA write ended (R148, R152, R158, R87, R89). -/
inductive DmaWrite where
  | ok
  | error
  deriving DecidableEq, Repr

/-- One constructor per row of spec/opcode_table.json. -/
inductive Instr where
  /-- EDIT_BEGIN (R6) -/
  | editBegin
  /-- ENTRY_INSERT (R8) -/
  | entryInsert
  /-- ENTRY_REMOVE (R9) -/
  | entryRemove
  /-- ENTRY_MODIFY (R10) -/
  | entryModify
  /-- READ_ENTRY (R11) -/
  | readEntry
  /-- EDIT_COMMIT (R13) -/
  | editCommit
  /-- EDIT_DISCARD (R12) -/
  | editDiscard
  /-- STAGE_VALUES (R45) -/
  | stageValues
  /-- ENTRY_CLEAR_VALUES (R53) -/
  | entryClearValues
  /-- ENTRY_REARM (R126) -/
  | entryRearm
  /-- LANE_CONFIGURE (R60) -/
  | laneConfigure
  /-- TRAIN_LANE (R74) -/
  | trainLane
  /-- LANE_EXCHANGE (R76) -/
  | laneExchange
  /-- READ_LANE (R81) -/
  | readLane
  /-- RING_CREATE (R84) -/
  | ringCreate
  /-- RING_RELEASE (R90) -/
  | ringRelease
  /-- RING_DELETE (R92) -/
  | ringDelete
  /-- SET_CYCLE_PLAN (R97) -/
  | setCyclePlan
  /-- READ_TIME (R122) -/
  | readTime
  /-- RESIGN (R110) -/
  | resign
  /-- EVENTS_OPEN (R155) -/
  | eventsOpen
  /-- QUEUE_CREATE (R138) -/
  | queueCreate
  /-- QUEUE_DELETE (R139) -/
  | queueDelete
  /-- START (R169) -/
  | start
  /-- STOP (R170) -/
  | stop
  /-- BAD_OPCODE (R145) -/
  | badOpcode
  /-- ENABLE_SET (R166): a write of CONTROL with ENABLE 1 -/
  | enableSet
  /-- ENABLE_CLEAR (R168): a write of CONTROL with ENABLE 0 -/
  | enableClear
  /-- FUNCTION_LEVEL_RESET (R168): the bus requests a function-level reset -/
  | functionLevelReset
  /-- DEVICE_RESET (R167): power-up or a reset of the host bus -/
  | deviceReset
  /-- SQ_TAIL_WRITE (R141) -/
  | sqTailWrite (pair : PairId) (value : Reg)
  /-- CQ_HEAD_WRITE (R149) -/
  | cqHeadWrite (pair : PairId) (value : Reg)
  /-- EQ_HEAD_WRITE (R161) -/
  | eqHeadWrite (value : Reg)
  /-- REGISTER_WRITE (R163): a write of `size` bytes at byte offset `offset` of the register window -/
  | registerWrite (offset size : Nat) (value : Reg)
  /-- FETCH_DECISION (R143) -/
  | fetchDecision
  /-- FETCH_END (R144): the fetch in progress ends -/
  | fetchEnd (result : DmaRead)
  /-- CQ_WRITE_END (R148): the completion write in progress of the pair ends -/
  | cqWriteEnd (pair : PairId) (result : DmaWrite)
  /-- QUEUE_DELETE_FINISH (R140) -/
  | queueDeleteFinish (pair : PairId)
  /-- BUFFER_WRITE_END (R152): the `index`-th of the report and reply buffer writes in progress, oldest first, ends -/
  | bufferWriteEnd (index : Nat) (result : DmaWrite)
  /-- MARK_REACHED (R31): the mark of the entry the Dispatcher waits for is reached -/
  | markReached
  /-- REPLY_COMPLETE (R67): the end pattern of the reply has been received; `cells` are its cells from the first of its
  start pattern to the last of its end pattern (R176) -/
  | replyComplete (lane : LaneId) (cells : List LineCell)
  /-- EXCHANGE_DEADLINE (R68) -/
  | exchangeDeadline (lane : LaneId)
  /-- LINE_IDLE_TIMEOUT (R64): the begun frame shows no transition for 8 bit times; `cells` are the cells received before
  that, from the first of the start pattern -/
  | lineIdleTimeout (lane : LaneId) (cells : List LineCell)
  /-- STALE_FRAME (R69): the end pattern of a stale frame has been received; `cells` as for REPLY_COMPLETE -/
  | staleFrame (lane : LaneId) (cells : List LineCell)
  /-- PROBE_INTERVAL (R72) -/
  | probeInterval (lane : LaneId)
  /-- RETRAIN_TIMER_EXPIRY (R71) -/
  | retrainTimerExpiry (lane : LaneId)
  /-- HOST_EXCHANGE_START (R78) -/
  | hostExchangeStart (lane : LaneId)
  /-- SLOT_WRITE_START (R86) -/
  | slotWriteStart
  /-- SLOT_WRITE_END (R87, R89) -/
  | slotWriteEnd (result : DmaWrite)
  /-- RING_DELETE_FINISH (R93) -/
  | ringDeleteFinish (ring : RingId)
  /-- BEACON_CAPTURE (R101): the first dominant bit of another unit's frame on an idle pair -/
  | beaconCapture
  /-- BEACON_RECEIVED (R101): the frame being received has ended; `bits` are its bits from the first one, true a 1 -/
  | beaconReceived (bits : List Bool)
  /-- LEADER_BEACON_START (R105) -/
  | leaderBeaconStart
  /-- BACKUP_BEACON_START (R106) -/
  | backupBeaconStart
  /-- FREE_RUN_BEACON_START (R107) -/
  | freeRunBeaconStart
  /-- OWN_BEACON_END (R101) -/
  | ownBeaconEnd
  /-- ARBITRATION_LOSS (R102): the readback mismatch came at frame bit `position`, 0 to 15 -/
  | arbitrationLoss (position : Nat)
  /-- BEACON_CLASH (R103): the readback mismatch came at frame bit `position`, 16 to 60 -/
  | beaconClash (position : Nat)
  /-- WATCH_EXPIRY (R114) -/
  | watchExpiry
  /-- FREE_RUN_CYCLE (R113) -/
  | freeRunCycle
  /-- HALTED_CYCLE_RESTART (R99) -/
  | haltedCycleRestart
  /-- MATRIX_REPORT (R134) -/
  | matrixReport
  /-- EVENT_WRITE_END (R158) -/
  | eventWriteEnd (result : DmaWrite)
  /-- LANE_FRAME_BEGINS (R67, R69) -/
  | laneFrameBegins (lane : LaneId)
  /-- CUT_OFF_REPLY_ENDS (R68) -/
  | cutOffReplyEnds (lane : LaneId)
  deriving DecidableEq, Repr

end Sys2Proof
end

