-- ==== Sys2Proof/Decode.lean ====
section
/-! DEFINITION. Decoding by the table's bits. No row of spec/opcode_table.json gives bits ("fields" is empty in every
row and none is fixed): the host commands are spelled by 64-byte records, which Machine/Operands.lean reads, and the
other rows are events. So no word spells a command. -/

namespace Sys2Proof

/-- The command that a word of `nbits` bits spells by the table's bits: none, for no row gives bits. -/
def decodeTableWord (_nbits _w : Nat) : Option Instr := none

end Sys2Proof
end

