-- ==== Sys2Proof/Config.lean ====
section
/-! DEFINITION. What the manual leaves free, as constants without a body, so that nothing can be proved of their values;
and the fixed real-time intervals of the manual in reference clocks (10 ns each, 0.5). -/

namespace Sys2Proof.Config

/-- FREE VALUE (log entry 5). Which of two blocks' events of one instant is accepted first (R125, R157: "may be accepted
in either order"). `true` takes the event of the block other than the Health Monitor. -/
opaque otherBlockFirst : Nat → Bool

/-- FREE VALUE (log entry 6). Whether a quantity that is not a whole number of its unit is rounded up or down, where the
manual gives the unit and not the rounding: the span of R66 in reference clocks, and the length of R118 in 1/16 STU. -/
opaque roundsUp : Nat → Bool

/-- FREE VALUE (log entry 7). The fraction of a reference clock, in millionths, carried into the first STU counted under
a new trim (R98 bounds the error of every run of STUs and does not fix which STU gets the odd clock). -/
opaque stuPhase : Nat → Nat

/-- FREE VALUE (log entry 8). The sequence echo reported for a stale frame of fewer than 8 bits (R69). -/
opaque shortEcho : List Bool → Byte

/-- FREE VALUE (log entry 9). The 16-bit count that NO_BEACON shows for more than 65535 rejected frames (R113). -/
opaque rejectedBeyond : Nat → BitVec 16

/-- FREE VALUE (log entry 37). The bit that a receiver takes from a cell without any transition, neither at its start nor
at its middle, in a frame that goes on after it (R176 gives the cells of bits and of end patterns and no others). -/
opaque silentBit : List LineCell → Bool

/-- Clocks per millisecond of REFCLK (0.5: 100 MHz). -/
def clocksPerMs : Nat := 100000

/-- The interval between the starts of two training probes, 256 microseconds (R72). -/
def probeInterval : Nat := 25600

/-- The deadline of a training probe, 64 microseconds (R66). -/
def probeDeadline : Nat := 6400

/-- A beacon lasts 6.1 microseconds: 61 bits of 100 ns (R100, R176). -/
def beaconClocks : Nat := 610

/-- The clocks that one STU is taken to last for a host exchange when no plan is set (R66, R76). -/
def defaultStu : Nat := 100

/-- The least count of failures in a row that faults a lane (R71). -/
def failureLimit : Nat := 6

/-- The most entries a table holds (R3). -/
def tableCapacity : Nat := 256

end Sys2Proof.Config
end

