-- ==== Sys2Proof/Machine/State.lean ====
section
/-! DEFINITION. Everything the manual gives the TS8 to hold, as plain data, block by block, and its value after a device
reset. Fields the manual does not name (the model's own) say so. -/

namespace Sys2Proof.Machine

/-! ### Why a command stops -/

/-- The manual gives the TS8 no fault that stops the part: every error it describes is a next state (a refusal status,
ERROR, HALTED, FATAL). No constructor, so nothing raises one. -/
inductive Fault
  deriving DecidableEq, Repr

/-- The reasons a command has no meaning. Safe: the machine stops where the part would go on. -/
inductive Refusal where
  /-- Raised by `exec` alone, for a command of the table that has no meaning yet. No arm raises it now. Safe. -/
  | notModelled (mnemonic : String)
  deriving DecidableEq, Repr

/-! ### Names -/

/-- The device states (R165). -/
inductive DevState where
  | off | config | running | halted | fatal
  deriving DecidableEq, Repr

/-- The fatal cause of STATUS (R164). -/
inductive FatalCause where
  | none | badAdmin | adminQueue
  deriving DecidableEq, Repr

/-- The halt cause of STATUS (R164). -/
inductive HaltCause where
  | none | rankClash | beaconClash
  deriving DecidableEq, Repr

/-- The state of a ring pair (R136), of an inbound ring (R83) and of the event ring (R154). -/
inductive RingState where
  | absent | active | error
  deriving DecidableEq, Repr

/-- The fault cause of a ring pair (R136, R151). -/
inductive PairFault where
  | none | badTail | badHead | fetchError | cqWriteError | bufferWriteError
  deriving DecidableEq, Repr

/-- The fault cause of the event ring (R154). -/
inductive EventFault where
  | none | writeError | badHead
  deriving DecidableEq, Repr

/-- The sync states (R112). -/
inductive SyncState where
  | off | unsynced | acquiring | locked
  deriving DecidableEq, Repr

/-- The dynamic roles (R104). -/
inductive Role where
  | follower | backup | leader
  deriving DecidableEq, Repr

/-- The trim states (R118). -/
inductive TrimState where
  | tracking | suspended | frozen
  deriving DecidableEq, Repr

/-- The lane states (R58). -/
inductive LaneState where
  | off | training | ready | faulted
  deriving DecidableEq, Repr

/-- The bit rates of a lane: 12.5, 25 and 50 Mbit/s (R58). -/
inductive LaneRate where
  | mbit12 | mbit25 | mbit50
  deriving DecidableEq, Repr

/-- The kinds of an entry (R1). -/
inductive Kind where
  | send | fetch | swap | probe | marker
  deriving DecidableEq, Repr

/-- The value mode of an entry; `none` where the kind carries none (section 11.4). -/
inductive ValueMode where
  | none | oneShot | hold
  deriving DecidableEq, Repr

/-- Which outcomes are posted as ENTRY_OUTCOME events (R1, R38). -/
inductive Notify where
  | none | failures | all
  deriving DecidableEq, Repr

/-- The outcomes of a firing, and the judgments of an exchange among them (section 11.2). -/
inductive Verdict where
  | done | badCheck | badReply | stationBusy | stationFault | noReply
  | laneNotReady | laneBusy | noValues | noRoom | ringFault | disabled
  deriving DecidableEq, Repr

/-- The completion status codes (section 8.9). -/
inductive Status where
  | ok | superseded | cancelled | entryRemoved | exchangeFailed | noTakeover
  | badOpcode | badField | adminOnly | wrongState | noPlan | noQueue
  | sessionOpen | noSession | notOwner | commitPending | tableFull | handleInUse | duplicateKey | noEntry
  | wrongKind | countMismatch
  | markRange | periodRange | laneOverlap | windowShort | ringAbsent
  | inUse | badIndex | queueFull | laneNoGap | laneNotReady | laneTrainFailed | notLeader
  deriving DecidableEq, Repr

/-- The event kinds (section 9.3). -/
inductive EventKind where
  | mark | entryOutcome | entryFailed | matrixReport | health | syncState | roleChange | trimState | noBeacon
  | beaconRejected | rankClash | beaconClash | halt | laneState | laneStaleReply | ringFault | queueFault | overflow
  deriving DecidableEq, Repr

/-! ### Queue Engine and Command Processor (chapter 8) -/

/-- What a completion record says of the command it answers (R148): its pair, its tag, and the pair's SQ head just after
its own fetch. -/
structure CmdRef where
  pair   : PairId
  tag    : BitVec 16
  sqHead : Nat
  deriving DecidableEq, Repr

/-- A completion handed to the Queue Engine (R146). -/
structure Completion where
  ref    : CmdRef
  status : Status
  result : Reg
  deriving DecidableEq, Repr

/-- A QUEUE DELETE in hand (R139): the command that asked for it, and how many of the pair's commands have been retired
without a record since (R140; log entry 15). -/
structure Deletion where
  ref     : CmdRef
  retired : Nat
  deriving DecidableEq, Repr

/-- One ring pair (R136). `writing` is the completion whose DMA write is in progress; the model begins a write as soon
as one is handed and none is in progress (log entry 11). -/
structure Pair where
  state       : RingState
  deleting    : Option Deletion
  sqBase      : HostAddr
  cqBase      : HostAddr
  depth       : Nat
  sqTail      : Nat
  sqHead      : Nat
  cqTail      : Nat
  cqPhase     : Bool
  cqHead      : Nat
  outstanding : Nat
  intEnable   : Bool
  armed       : Bool
  cause       : PairFault
  handed      : List Completion
  writing     : Option Completion
  deriving DecidableEq, Repr

/-- Reset state of a pair (R136). -/
def Pair.reset : Pair :=
  { state := .absent, deleting := none, sqBase := 0, cqBase := 0, depth := 0, sqTail := 0, sqHead := 0, cqTail := 0,
    cqPhase := true, cqHead := 0, outstanding := 0, intEnable := false, armed := true, cause := .none, handed := [],
    writing := none }

/-- The holding place's content (R136, R144): the record, its pair, and the SQ head after its fetch. -/
structure Held where
  record : CommandRecord
  pair   : PairId
  sqHead : Nat
  deriving DecidableEq, Repr

/-- A report or reply buffer write in progress (R152): the command it is made for, the result its completion will
carry, and whether it is a report, made while the command is still in execution (R146). -/
structure BufferWrite where
  ref    : CmdRef
  result : Reg
  report : Bool
  deriving DecidableEq, Repr

/-! ### Schedule Table and Value Store (chapters 1 and 3) -/

/-- An entry (section 1.1). A field its kind does not carry is zero (R2). -/
structure Entry where
  handle   : Nat
  kind     : Kind
  lane     : LaneId
  period   : Nat
  phase    : Nat
  outCount : Nat
  inCount  : Nat
  mode     : ValueMode
  ring     : RingId
  notify   : Notify
  mark     : Nat
  window   : Nat
  deriving DecidableEq, Repr

/-- A present deferred STAGE (R44): its command, and its condition, STAGED or ON_WIRE. -/
structure DeferredStage where
  ref    : CmdRef
  onWire : Bool
  deriving DecidableEq, Repr

/-- The runtime record of an active entry (R4). -/
structure Runtime where
  score    : Nat
  disabled : Bool
  waiting  : Option (List StationWord)   -- the pending slot
  current  : Option (List StationWord)   -- the current slot
  stage    : Option DeferredStage
  deriving DecidableEq, Repr

/-- A fresh runtime record (R20). -/
def Runtime.fresh : Runtime := { score := 0, disabled := false, waiting := none, current := none, stage := none }

/-- An entry of the active table with its runtime record (R4). -/
structure ActiveEntry where
  entry : Entry
  run   : Runtime
  deriving DecidableEq, Repr

/-- An open edit session (R5): its owner, and the EDIT COMMIT that is pending, if one is. -/
structure Session where
  owner  : PairId
  commit : Option CmdRef
  deriving DecidableEq, Repr

/-! ### Cycle Dispatcher (chapter 2) -/

/-- The cycle in hand (R24). The matrix tag names one matrix record by its `id`, or none (R131). -/
structure CycleInHand where
  count    : Nat
  tag      : Option Nat
  position : Nat
  deriving DecidableEq, Repr

/-- The firing record (R34); its deadline is the exchange's, and its slot is the next of its ring (R85). `outWords` is the
set taken by SEND and SWAP, empty otherwise. `attached` (the model's own) says that the runtime record the firing started
under is still the one its handle holds (R21). -/
structure Firing where
  handle   : Nat
  kind     : Kind
  lane     : LaneId
  outWords : List StationWord
  inCount  : Nat
  ring     : RingId
  notify   : Notify
  cycle    : Nat
  tag      : Option Nat
  start    : Count32
  attached : Bool
  deriving DecidableEq, Repr

/-! ### Lane Controllers (chapter 4) -/

/-- A deadline (R66): a local time, or reference clocks still to count. -/
inductive Deadline where
  | atLocal (time : Count32)
  | inClocks (left : Nat)
  deriving DecidableEq, Repr

/-- An accepted LANE EXCHANGE (R76). -/
structure HostExchange where
  ref      : CmdRef
  kind     : Kind
  outWords : List StationWord
  inCount  : Nat
  window   : Nat
  address  : HostAddr
  deriving DecidableEq, Repr

/-- A waiting host exchange and its give-up count (R77). -/
structure WaitingExchange where
  exchange : HostExchange
  giveUps  : Nat
  deriving DecidableEq, Repr

/-- What an exchange in flight is (R58). A probe whose run has been abandoned is not `current`: its judgment is ignored
(R74). -/
inductive ExchangeSource where
  | scheduled (firing : Firing)
  | host (exchange : HostExchange)
  | probe (current : Bool)
  deriving DecidableEq, Repr

/-- The exchange in flight of a lane (R58, R66). `settling` marks a FETCH or SWAP judged DONE that waits for its slot
write (R66). -/
structure Exchange where
  source   : ExchangeSource
  sequence : Byte
  inCount  : Nat
  deadline : Deadline
  settling : Bool
  deriving DecidableEq, Repr

/-- What the receiver of a lane is taking in (R67 to R69): nothing, the reply of the exchange in flight, a stale frame
with the stale notify in force when it began (R62), or the remainder of a reply cut off at its deadline. -/
inductive Receiver where
  | idle
  | reply
  | stale (notify : Bool)
  | cutOff
  deriving DecidableEq, Repr

/-- One Lane Controller (R58). `probeWait` is the clocks still to run until the next training probe is due (R72). -/
structure Lane where
  state        : LaneState
  rate         : LaneRate
  autoRetrain  : Bool
  retrainDelay : Nat
  staleNotify  : Bool
  sequence     : Byte
  failures     : Nat
  inFlight     : Option Exchange
  queue        : List WaitingExchange
  probesSent   : Nat
  goodRun      : Nat
  probeWait    : Nat
  retrainTimer : Option Nat
  waitingTrain : Option CmdRef
  receiver     : Receiver
  deriving DecidableEq, Repr

/-- Reset state of a lane (R59). -/
def Lane.reset : Lane :=
  { state := .off, rate := .mbit25, autoRetrain := false, retrainDelay := 10, staleNotify := false, sequence := 0,
    failures := 0, inFlight := none, queue := [], probesSent := 0, goodRun := 0, probeWait := 0, retrainTimer := none,
    waitingTrain := none, receiver := .idle }

/-! ### Inbound Ring Writer (chapter 5) -/

/-- One ring descriptor (R83). -/
structure InRing where
  state     : RingState
  closing   : Option CmdRef
  base      : HostAddr
  slotCount : Nat
  written   : Count32
  returned  : Count32
  reserved  : Nat
  lap       : Bool
  deriving DecidableEq, Repr

/-- Reset state of a descriptor (R83). -/
def InRing.reset : InRing :=
  { state := .absent, closing := none, base := 0, slotCount := 0, written := 0, returned := 0, reserved := 0,
    lap := true }

/-- An element of the write queue (R83): the lane whose exchange was judged DONE, with the words received. The firing
record is the one the lane's exchange in flight holds. -/
structure SlotWrite where
  lane  : LaneId
  words : List StationWord
  deriving DecidableEq, Repr

/-! ### Time Base and Sync Controller (chapter 6) -/

/-- The cycle plan (R96). -/
structure Plan where
  stu         : Nat
  bm          : Nat
  matrix      : Nat
  stagger     : Nat
  watchMargin : Nat
  candidate   : Bool
  rank        : Nat
  unit        : Nat
  trimLimit   : Nat
  reports     : Bool
  deriving DecidableEq, Repr

/-- An instant of the time base: the local time, the clocks gone in the STU in progress, and that STU's length. The
captured instant of an edge is held in this form, for cycle time and the trim are counted from it (R99, R118). -/
structure Instant where
  time   : Count32
  clocks : Nat
  length : Nat
  deriving DecidableEq, Repr

/-- A beacon of the unit's own on the pair (R100): the instant of its first bit, what it carries, the clocks since its
first bit, and whether its end is an edge (not after STOP, R170). -/
structure OwnBeacon where
  instant : Instant
  count   : Nat
  restart : Bool
  clocks  : Nat
  counts  : Bool
  deriving DecidableEq, Repr

/-- What R118 must know of the edge that opened the present cycle. -/
structure Opening where
  instant : Instant
  locked  : Bool
  restart : Bool
  deriving DecidableEq, Repr

/-- The Time Base and Sync Controller (R96, R98, R99, R104, R110, R112, R113, R118, R122). `stuLength`, `stuLeft` and
`stuCarry` divide REFCLK into STU (R98); `activity` is activity seen on the pair since cycle time reached BM (R108);
`firstFreeRun` and `rejectedInRun` serve NO_BEACON (R113); `keptTrim` is the state a FROZEN trim returns to (R121). -/
structure TimeSync where
  plan          : Option Plan
  localTime     : Count32
  cycleTime     : Nat
  cycleCount    : Nat
  stuLength     : Nat
  stuLeft       : Nat
  stuCarry      : Nat
  sync          : SyncState
  role          : Role
  trim          : Int
  trimState     : TrimState
  keptTrim      : TrimState
  goodRun       : Nat
  hold          : Bool
  resign        : Option CmdRef
  lastLeader    : Option (Nat × Nat)
  sending       : Option OwnBeacon
  receiving     : Option Instant
  activity      : Bool
  firstFreeRun  : Bool
  rejectedInRun : Nat
  opening       : Option Opening
  deriving DecidableEq, Repr

/-- Reset state of the Time Base and Sync Controller (R117). DESIGN CHOICE, unsafe: R121 gives the kept trim state no
reset value, and the model gives it TRACKING (log entry 42). -/
def TimeSync.reset : TimeSync :=
  { plan := none, localTime := 0, cycleTime := 0, cycleCount := 0, stuLength := 0, stuLeft := 0, stuCarry := 0,
    sync := .off, role := .follower, trim := 0, trimState := .tracking, keptTrim := .tracking, goodRun := 0,
    hold := false, resign := none, lastLeader := none, sending := none, receiving := none, activity := false,
    firstFreeRun := false, rejectedInRun := 0, opening := none }

/-! ### Health Monitor (chapter 7) -/

/-- A matrix record (R123). `id` (the model's own) is what a matrix tag names (R131). -/
structure MatrixRecord where
  id        : Nat
  number    : Nat
  expected  : Nat
  done      : Nat
  failed    : Nat
  skipped   : Nat
  isPartial : Bool
  lastCycle : Nat
  inFlight  : Nat
  deriving DecidableEq, Repr

/-- The Health Monitor (R123). `nextId` (the model's own) numbers the matrix records. -/
structure HealthMonitor where
  degraded      : Bool
  weakEntry     : Bool
  disabledEntry : Bool
  trimSuspended : Bool
  laneDown      : Bool
  expected      : Nat
  matrixNumber  : Nat
  openRecord    : Option MatrixRecord
  closed        : List MatrixRecord
  nextId        : Nat
  deriving DecidableEq, Repr

/-- Reset state of the Health Monitor (R123). -/
def HealthMonitor.reset : HealthMonitor :=
  { degraded := false, weakEntry := false, disabledEntry := false, trimSuspended := false, laneDown := false,
    expected := 0, matrixNumber := 0, openRecord := none, closed := [], nextId := 0 }

/-! ### Event Writer (chapter 9) -/

/-- An event as a block posts it (R156); the phase and the position are the Event Writer's. -/
structure Event where
  kind    : EventKind
  subject : BitVec 16
  cycle   : Nat
  time    : Count32
  detail  : Reg
  deriving DecidableEq, Repr

/-- An accepted record of the write queue (R154). -/
structure EventRecord where
  position : Nat
  phase    : Bool
  event    : Event
  deriving DecidableEq, Repr

/-- A set overflow (R154, R159). -/
structure Overflow where
  count : Nat
  time  : Count32
  kind  : EventKind
  deriving DecidableEq, Repr

/-- The Event Writer (R154). The oldest record of the write queue is the one being written, unless `stray` says that a
write begun before a BAD_HEAD fault has not ended yet (R155, R162; log entry 12). -/
structure EventWriter where
  state     : RingState
  base      : HostAddr
  depth     : Nat
  intEnable : Bool
  tail      : Nat
  phase     : Bool
  head      : Nat
  queue     : List EventRecord
  armed     : Bool
  overflow  : Option Overflow
  cause     : EventFault
  dropped   : Nat
  stray     : Bool
  deriving DecidableEq, Repr

/-- Reset state of the Event Writer (R154). -/
def EventWriter.reset : EventWriter :=
  { state := .absent, base := 0, depth := 0, intEnable := false, tail := 0, phase := true, head := 0, queue := [],
    armed := true, overflow := none, cause := .none, dropped := 0, stray := false }

/-! ### What the part sends out -/

/-- Who sends an interrupt message (R150, R160). -/
inductive MessageSource where
  | pair (p : PairId)
  | eventRing
  deriving DecidableEq, Repr

/-- What the part puts on its buses and lines. A DMA request is listed when it begins; how it ends comes back as an
operand of the command that ends it. -/
inductive Output where
  /-- a fetch of 64 bytes (R144) -/
  | dmaRead (address : HostAddr)
  /-- one DMA write (R174) -/
  | dmaWrite (address : HostAddr) (bytes : List Byte)
  /-- an interrupt message (R150, R160) -/
  | message (source : MessageSource)
  /-- a request frame on a lane, as the two half-cell levels of each of its cells (R63, R176) -/
  | laneFrame (lane : LaneId) (rate : LaneRate) (cells : List LineCell)
  /-- a beacon begun on the sync pair, as its 61 bits (R100) -/
  | beacon (bits : List Bool)
  deriving DecidableEq, Repr

/-! ### The machine -/

/-- The state of the TS8. The last three fields are the model's own: what the part has sent out (newest first), a
counter for free values, and the commands that wait. -/
structure State where
  -- the device and its registers (chapter 10)
  dev        : DevState
  enable     : Bool
  adminSq    : Reg
  adminCq    : Reg
  adminDepth : BitVec 4
  fatalCause : FatalCause
  adminFault : PairFault
  haltCause  : HaltCause
  -- Queue Engine and Command Processor (chapter 8)
  pairs      : Vector Pair 4
  pointer    : PairId
  holding    : Option Held
  fetching   : Option PairId
  executing  : Option CmdRef
  buffers    : List BufferWrite
  -- Schedule Table and Value Store (chapters 1 and 3)
  active     : List ActiveEntry
  edit       : List Entry
  session    : Option Session
  -- Cycle Dispatcher (chapter 2)
  cycle      : Option CycleInHand
  -- Lane Controllers (chapter 4)
  lanes      : Vector Lane 8
  -- Inbound Ring Writer (chapter 5)
  rings      : Vector InRing 16
  slotQueue  : List SlotWrite
  slotWriting : Bool
  -- Time Base and Sync Controller (chapter 6)
  sc         : TimeSync
  -- Health Monitor (chapter 7)
  hm         : HealthMonitor
  -- Event Writer (chapter 9)
  ew         : EventWriter
  -- the model's own
  outputs    : List Output
  free       : Nat
  pending    : List Instr
  deriving DecidableEq, Repr

/-- The machine after a device reset (R167): every field at the value the manual states (R5, R24, R59, R83, R117, R123,
R136, R154, R163, R164). -/
def State.reset : State :=
  { dev := .off, enable := false, adminSq := 0, adminCq := 0, adminDepth := 0, fatalCause := .none,
    adminFault := .none, haltCause := .none,
    pairs := Vector.replicate 4 Pair.reset, pointer := 0, holding := none, fetching := none, executing := none,
    buffers := [],
    active := [], edit := [], session := none,
    cycle := none,
    lanes := Vector.replicate 8 Lane.reset,
    rings := Vector.replicate 16 InRing.reset, slotQueue := [], slotWriting := false,
    sc := TimeSync.reset, hm := HealthMonitor.reset, ew := EventWriter.reset,
    outputs := [], free := 0, pending := [] }

end Sys2Proof.Machine
end

