-- ==== Sys2Proof/Machine/Operands.lean ====
section
/-! DEFINITION. The operands of the host commands: the fields of a 64-byte command record (section 11.1, R173) and the
entry record in it (section 11.4, R2). -/

namespace Sys2Proof.Machine

/-! ### Fields at fixed bytes -/

/-- Byte `i` of a command record (section 11.1). -/
def recordByte (r : CommandRecord) (i : Nat) : Nat := (r.extractLsb' (8 * i) 8).toNat

/-- The two-byte field at byte `i`, least significant byte first (chapter 11). -/
def recordField16 (r : CommandRecord) (i : Nat) : Nat := (r.extractLsb' (8 * i) 16).toNat

/-- The four-byte field at byte `i` (chapter 11). -/
def recordField32 (r : CommandRecord) (i : Nat) : Count32 := r.extractLsb' (8 * i) 32

/-- The eight-byte field at byte `i`: a host address (section 11.1). -/
def recordAddress (r : CommandRecord) (i : Nat) : HostAddr := r.extractLsb' (8 * i) 64

/-- The opcode (section 11.1). -/
def recordOpcode (r : CommandRecord) : Nat := recordByte r 0

/-- The tag (section 11.1). -/
def recordTag (r : CommandRecord) : BitVec 16 := r.extractLsb' 16 16

/-- Inline word `i`, at bytes 32 + 2 i and the next (section 11.1). -/
def recordWord (r : CommandRecord) (i : Nat) : StationWord := r.extractLsb' (256 + 16 * i) 16

/-- The first `n` inline words, in order. -/
def recordWords (r : CommandRecord) (n : Nat) : List StationWord := (List.range n).map (recordWord r)

/-- Every byte outside the header's opcode and tag and outside the parameter bytes `named` is zero: the must-be-zero
bytes of R173 are header bytes 1 and 4 to 7 and every parameter byte not named for the command. -/
def reservedZero (r : CommandRecord) (named : List (Nat × Nat)) : Bool :=
  (List.range 64).all fun i =>
    decide (i = 0 ∨ i = 2 ∨ i = 3) || named.any (fun f => decide (f.1 ≤ i ∧ i ≤ f.2)) || decide (recordByte r i = 0)

/-- The parameter bytes that `n` inline words occupy; the words beyond the count are must-be-zero (R173). -/
def wordBytes (n : Nat) : List (Nat × Nat) := if n = 0 then [] else [(32, 31 + 2 * n)]

/-- A flag byte holds 0 or 1 (section 11.1). -/
def flagByte (n : Nat) : Option Bool := if n = 0 then some false else if n = 1 then some true else none

/-- A power of two from `low` to `high` (R84, R138, R155: slot counts and depths). -/
def powerOfTwoIn (low high n : Nat) : Bool :=
  decide (low ≤ n ∧ n ≤ high) && (List.range 13).any fun k => decide (n = 2 ^ k)

/-- A multiple of 64 (R83, R136, R154). -/
def aligned64 (a : HostAddr) : Bool := decide (a.toNat % 64 = 0)

/-! ### Codes of a record (sections 11.1 and 11.4) -/

/-- The kind codes. -/
def kindOfCode : Nat → Option Kind
  | 1 => some .send
  | 2 => some .fetch
  | 3 => some .swap
  | 4 => some .probe
  | 5 => some .marker
  | _ => none

/-- The value mode codes; 0 where the kind carries none. -/
def modeOfCode : Nat → Option ValueMode
  | 0 => some .none
  | 1 => some .oneShot
  | 2 => some .hold
  | _ => none

/-- The notify codes. -/
def notifyOfCode : Nat → Option Notify
  | 0 => some .none
  | 1 => some .failures
  | 2 => some .all
  | _ => none

/-- The rate codes. -/
def rateOfCode : Nat → Option LaneRate
  | 1 => some .mbit12
  | 2 => some .mbit25
  | 3 => some .mbit50
  | _ => none

/-- The opcodes of the TS8 (section 11.1). -/
def opcodes : List Nat :=
  [0x01, 0x02, 0x03, 0x04, 0x05, 0x06, 0x07, 0x10, 0x11, 0x12, 0x20, 0x21, 0x22, 0x23, 0x30, 0x31, 0x32, 0x40, 0x41,
   0x42, 0x50, 0x60, 0x61, 0x70, 0x71]

/-! ### What a kind carries (R1) -/

/-- Lane entries are those of kind SEND, FETCH, SWAP and PROBE (R1). -/
def Kind.isLane : Kind → Bool
  | .marker => false
  | _ => true

/-- SEND and SWAP send words taken from the Value Store (R1). -/
def Kind.sends : Kind → Bool
  | .send => true
  | .swap => true
  | _ => false

/-- FETCH and SWAP receive words (R1). -/
def Kind.receives : Kind → Bool
  | .fetch => true
  | .swap => true
  | _ => false

/-- A count of words follows what the kind carries: 1 to 16 where it carries one, else zero (R2, R63). -/
def countFits (carried : Bool) (n : Nat) : Bool := if carried then decide (1 ≤ n ∧ n ≤ 16) else decide (n = 0)

/-! ### The entry record (R2, section 11.4) -/

/-- The field checks of R2 on a record whose fields have been read: each field the kind carries is in its range and each
it does not carry is zero. -/
def Entry.fieldsFit (e : Entry) : Bool :=
  decide (16 ≤ e.mark) &&
  powerOfTwoIn 1 64 e.period &&
  decide (e.phase < e.period) &&
  (if e.kind.isLane then decide (4 ≤ e.window ∧ e.window ≤ 4095)
   else decide (e.lane = 0 ∧ e.window = 0 ∧ e.notify = .none)) &&
  countFits e.kind.sends e.outCount &&
  countFits e.kind.receives e.inCount &&
  (if e.kind.sends then decide (e.mode ≠ .none) else decide (e.mode = .none)) &&
  (e.kind.receives || decide (e.ring = 0))

/-- The entry record at bytes 8 to 23 of ENTRY INSERT and ENTRY MODIFY (section 11.4), or none where R2 refuses it with
BAD_FIELD: a code is not one of its table, a field does not fit, or a must-be-zero byte is not zero. -/
def recordEntry (r : CommandRecord) : Option Entry :=
  match kindOfCode (recordByte r 9), modeOfCode (recordByte r 15), notifyOfCode (recordByte r 17) with
  | some kind, some mode, some notify =>
    if hl : recordByte r 10 < 8 then
      if hr : recordByte r 16 < 16 then
        let e : Entry :=
          { handle := recordByte r 8, kind := kind, lane := ⟨recordByte r 10, hl⟩, period := recordByte r 11,
            phase := recordByte r 12, outCount := recordByte r 13, inCount := recordByte r 14, mode := mode,
            ring := ⟨recordByte r 16, hr⟩, notify := notify, mark := recordField16 r 18,
            window := recordField16 r 20 }
        if e.fieldsFit && reservedZero r [(8, 21)] then some e else none
      else none
    else none
  | _, _, _ => none

/-! ### Lane, ring and pair numbers -/

/-- The lane number in a byte, or none above 7. -/
def laneOfByte (n : Nat) : Option LaneId := if h : n < 8 then some ⟨n, h⟩ else none

/-- The ring number in a byte, or none above 15. -/
def ringOfByte (n : Nat) : Option RingId := if h : n < 16 then some ⟨n, h⟩ else none

/-- The number of a ring pair that can be created and deleted, or none outside 1 to 3 (R138, R139). -/
def createdPairOfByte (n : Nat) : Option PairId := if h : 1 ≤ n ∧ n ≤ 3 then some ⟨n, by omega⟩ else none

end Sys2Proof.Machine
end

