-- ==== Sys2Proof/Machine/Flags.lean ====
section
/-! DEFINITION. The codes and packed flag words that software reads: the codes of the states (sections 8.9, 11.2 to
11.4, R164), the details of events, and the STATUS register. -/

namespace Sys2Proof.Machine

/-! ### Codes -/

/-- The status values (section 8.9). -/
def Status.code : Status → Nat
  | .ok => 0x00
  | .superseded => 0x01
  | .cancelled => 0x02
  | .entryRemoved => 0x03
  | .exchangeFailed => 0x04
  | .noTakeover => 0x05
  | .badOpcode => 0x10
  | .badField => 0x11
  | .adminOnly => 0x12
  | .wrongState => 0x13
  | .noPlan => 0x14
  | .noQueue => 0x15
  | .sessionOpen => 0x20
  | .noSession => 0x21
  | .notOwner => 0x22
  | .commitPending => 0x23
  | .tableFull => 0x24
  | .handleInUse => 0x25
  | .duplicateKey => 0x26
  | .noEntry => 0x27
  | .wrongKind => 0x28
  | .countMismatch => 0x29
  | .markRange => 0x30
  | .periodRange => 0x31
  | .laneOverlap => 0x32
  | .windowShort => 0x33
  | .ringAbsent => 0x34
  | .inUse => 0x40
  | .badIndex => 0x41
  | .queueFull => 0x42
  | .laneNoGap => 0x43
  | .laneNotReady => 0x44
  | .laneTrainFailed => 0x45
  | .notLeader => 0x46

/-- The outcome codes (section 11.2). -/
def Verdict.code : Verdict → Nat
  | .done => 0
  | .badCheck => 1
  | .badReply => 2
  | .stationBusy => 3
  | .stationFault => 4
  | .noReply => 5
  | .laneNotReady => 6
  | .laneBusy => 7
  | .noValues => 8
  | .noRoom => 9
  | .ringFault => 10
  | .disabled => 11

/-- The event kind codes (section 11.3). -/
def EventKind.code : EventKind → Nat
  | .mark => 1
  | .entryOutcome => 2
  | .entryFailed => 3
  | .matrixReport => 4
  | .health => 5
  | .syncState => 6
  | .roleChange => 7
  | .trimState => 8
  | .noBeacon => 9
  | .beaconRejected => 10
  | .rankClash => 11
  | .beaconClash => 12
  | .halt => 13
  | .laneState => 14
  | .laneStaleReply => 15
  | .ringFault => 16
  | .queueFault => 17
  | .overflow => 18

/-- The device state codes of STATUS (R164). -/
def DevState.code : DevState → Nat
  | .off => 0
  | .config => 1
  | .running => 2
  | .halted => 3
  | .fatal => 4

/-- The sync state codes of STATUS (R164). -/
def SyncState.code : SyncState → Nat
  | .off => 0
  | .unsynced => 1
  | .acquiring => 2
  | .locked => 3

/-- The dynamic role codes of STATUS (R164). -/
def Role.code : Role → Nat
  | .follower => 0
  | .backup => 1
  | .leader => 2

/-- The trim state codes (section 11.3). -/
def TrimState.code : TrimState → Nat
  | .tracking => 0
  | .suspended => 1
  | .frozen => 2

/-- The lane state codes (section 11.2). -/
def LaneState.code : LaneState → Nat
  | .off => 0
  | .training => 1
  | .ready => 2
  | .faulted => 3

/-- The rate codes (section 11.1). -/
def LaneRate.code : LaneRate → Nat
  | .mbit12 => 1
  | .mbit25 => 2
  | .mbit50 => 3

/-- The pair fault codes of STATUS and QUEUE_FAULT (R164, section 11.3). -/
def PairFault.code : PairFault → Nat
  | .none => 0
  | .badTail => 1
  | .badHead => 2
  | .fetchError => 3
  | .cqWriteError => 4
  | .bufferWriteError => 5

/-- The event ring fault codes of the EVENTS OPEN result (section 11.2). -/
def EventFault.code : EventFault → Nat
  | .none => 0
  | .writeError => 1
  | .badHead => 2

/-- The fatal cause codes of STATUS (R164). -/
def FatalCause.code : FatalCause → Nat
  | .none => 0
  | .badAdmin => 1
  | .adminQueue => 2

/-- The halt cause codes of STATUS and HALT (R164, section 11.3). -/
def HaltCause.code : HaltCause → Nat
  | .none => 0
  | .rankClash => 1
  | .beaconClash => 2

/-- The kind codes (section 11.4). -/
def Kind.code : Kind → Nat
  | .send => 1
  | .fetch => 2
  | .swap => 3
  | .probe => 4
  | .marker => 5

/-- The value mode codes (section 11.4). -/
def ValueMode.code : ValueMode → Nat
  | .none => 0
  | .oneShot => 1
  | .hold => 2

/-- The notify codes (section 11.4). -/
def Notify.code : Notify → Nat
  | .none => 0
  | .failures => 1
  | .all => 2

/-! ### Packing -/

/-- A flag as a number. -/
def bit (b : Bool) : Nat := if b then 1 else 0

/-- A 32-bit word built from fields, each a value and the place of its lowest bit. -/
def pack (fields : List (Nat × Nat)) : Reg := BitVec.ofNat 32 ((fields.map fun f => f.1 * 2 ^ f.2).sum)

/-! ### Register contents (R163, R164) -/

/-- The part code and revision of IDENT (R163). -/
def identWord : Reg := 0x0E580001

/-- STATUS as read at this moment (R164). -/
def State.statusWord (s : State) : Reg :=
  pack [(s.dev.code, 0), (bit s.hm.degraded, 3), (s.sc.sync.code, 4), (s.sc.role.code, 6),
    (bit (decide (s.ew.state = .error)), 8), (s.fatalCause.code, 9), (s.adminFault.code, 11), (s.haltCause.code, 14)]

/-- What a read of a whole word at byte offset `offset` returns (R163). A read at any other offset reads 0. -/
def State.readWord (s : State) (offset : Nat) : Reg :=
  match offset with
  | 0x00 => identWord
  | 0x04 => pack [(bit s.enable, 0)]
  | 0x08 => s.statusWord
  | 0x0C => s.adminSq
  | 0x10 => s.adminCq
  | 0x14 => s.adminDepth.setWidth 32
  | 0x18 => BitVec.ofNat 32 s.pairs[0].sqTail
  | 0x1C => BitVec.ofNat 32 s.pairs[1].sqTail
  | 0x20 => BitVec.ofNat 32 s.pairs[2].sqTail
  | 0x24 => BitVec.ofNat 32 s.pairs[3].sqTail
  | 0x28 => BitVec.ofNat 32 s.pairs[0].cqHead
  | 0x2C => BitVec.ofNat 32 s.pairs[1].cqHead
  | 0x30 => BitVec.ofNat 32 s.pairs[2].cqHead
  | 0x34 => BitVec.ofNat 32 s.pairs[3].cqHead
  | 0x38 => BitVec.ofNat 32 s.ew.head
  | _ => 0

/-- What a read of `size` bytes at byte offset `offset` of the register window returns: one of less than a whole aligned
word reads 0 (R163). -/
def State.readRegister (s : State) (offset size : Nat) : Reg := if size = 4 then s.readWord offset else 0

end Sys2Proof.Machine
end

