-- ==== Sys2Proof/Machine/Frames.lean ====
section
/-! DEFINITION. Frames on the wire and records in host memory: their bits and bytes, the check, and how a received frame
is judged (R63, R64, R67, R100, R101, R148, R156, R174, R176, sections 11.2 to 11.5). -/

namespace Sys2Proof.Machine

/-! ### Bits, most significant first -/

/-- A number as `n` bits, most significant bit first (chapter 11). -/
def msbBits (n v : Nat) : List Bool := (List.range n).map fun i => v.testBit (n - 1 - i)

/-- The number that bits spell, most significant bit first. -/
def bitsValue (bits : List Bool) : Nat := bits.foldl (fun acc b => 2 * acc + bit b) 0

/-- The field of `n` bits that begins at bit `start` of a frame; a bit not received is 0 (section 11.3). -/
def frameField (bits : List Bool) (start n : Nat) : Nat :=
  bitsValue ((List.range n).map fun i => bits.getD (start + i) false)

/-- The check of R176: the register starts at all ones, is shifted left for each covered bit, and is exclusive-ORed with
0x1021 when the bit shifted out differs from the covered bit. -/
def checkOf (covered : List Bool) : BitVec 16 :=
  covered.foldl (fun reg b => if reg.msb != b then (reg <<< 1) ^^^ 0x1021#16 else reg <<< 1) 0xFFFF#16

/-! ### Line code of the station lanes (R176) -/

/-- A data cell: a 1 passes from low to high at mid-cell, a 0 from high to low. -/
def dataCell (b : Bool) : LineCell := (!b, b)

/-- `n` end cells after a cell that ends at `level`: each holds the inverse of the level before it (R176; log entry 26). -/
def endCells (level : Bool) : Nat → List (LineCell)
  | 0 => []
  | n + 1 => (!level, !level) :: endCells (!level) n

/-- The cells of a frame: its bits and then its end cells. -/
def lineCells (bits : List Bool) (ends : Nat) : List (LineCell) :=
  bits.map dataCell ++ endCells (bits.getLastD false) ends

/-! ### Station frames (sections 4.3, 11.5) -/

/-- The start pattern of a station frame (section 11.5). -/
def lanePattern : List Bool := msbBits 16 0b1010101010101011

/-- The bits of a request that the check covers: kind to the last out word (R63). -/
def requestBody (kind : Kind) (sequence : Byte) (outWords : List StationWord) (inCount : Nat) : List Bool :=
  msbBits 4 kind.code ++ msbBits 8 sequence.toNat ++ msbBits 5 outWords.length ++ msbBits 5 inCount ++
    outWords.flatMap fun w => msbBits 16 w.toNat

/-- The data bits of a request frame, start pattern to check (R63). -/
def requestBits (kind : Kind) (sequence : Byte) (outWords : List StationWord) (inCount : Nat) : List Bool :=
  let body := requestBody kind sequence outWords inCount
  lanePattern ++ body ++ msbBits 16 (checkOf body).toNat

/-- The cells of a request frame: its bits and six end cells (R63, R176). -/
def requestCells (kind : Kind) (sequence : Byte) (outWords : List StationWord) (inCount : Nat) : List (LineCell) :=
  lineCells (requestBits kind sequence outWords inCount) 6

/-- What a received cell is, by the level at which the cell before it ended (R176): a transition at mid-cell is a bit, 1 if
it rises; a cell without one is an end cell if it inverts the level before it, and shows no transition at all if not. -/
inductive CellKind where
  | data (bit : Bool)
  | ending
  | silent
  deriving DecidableEq, Repr

/-- The kind of a cell after a level (R176). -/
def cellKind (level : Bool) (c : LineCell) : CellKind :=
  if c.1 ≠ c.2 then .data c.2 else if c.1 = level then .silent else .ending

/-- The bits of a frame's cells after a level, up to its first end cell, where its length ends (R176). A cell without any
transition, which no frame holds, is taken as a bit of free value (log entry 37). -/
def cellBits (level : Bool) : List LineCell → List Bool
  | [] => []
  | c :: cs =>
    match cellKind level c with
    | .data b => b :: cellBits c.2 cs
    | .silent => Config.silentBit (c :: cs) :: cellBits c.2 cs
    | .ending => []

/-- How many end cells a receiver has taken with these cells after a level (R176; log entry 37). -/
def endsTaken (level : Bool) : List LineCell → Nat
  | [] => 0
  | c :: cs => (if cellKind level c = .ending then 1 else 0) + endsTaken c.2 cs

/-- The bits of a received frame after its start pattern, whose last cell ends at the high level, to its first end cell
(R64, R176). -/
def frameBits (cells : List LineCell) : List Bool := cellBits true (cells.drop 16)

/-- The bits between start pattern and first end cell of a reply whose last cell completes its end pattern, or none: the
cells begin with the start pattern, and the last of them is the fourth end cell taken (R64, R176). -/
def replyOf (cells : List LineCell) : Option (List Bool) :=
  if cells.take 16 = lanePattern.map dataCell ∧ endsTaken true (cells.drop 16) = 4 ∧
      endsTaken true (cells.drop 16).dropLast = 3 then some (frameBits cells)
  else none

/-- The bits of a received frame that its check covers: all but its last 16 (R64). -/
def coveredBits (bits : List Bool) : List Bool := bits.take (bits.length - 16)

/-- Whether the check of a received frame is good: its last 16 bits are the check of the bits before them (R64, R176).
A frame too short to hold a check has none, so it is wrong. -/
def checkGood (bits : List Bool) : Bool :=
  decide (16 ≤ bits.length) && decide (bits.drop (bits.length - 16) = msbBits 16 (checkOf (coveredBits bits)).toNat)

/-- The sequence echo of a reply: the first 8 bits after the start pattern (R64). -/
def replyEcho (bits : List Bool) : Byte := BitVec.ofNat 8 (frameField bits 0 8)

/-- The station status of a reply (section 11.5). -/
def replyStatus (bits : List Bool) : Nat := frameField bits 8 3

/-- The word count of a reply (section 11.5). -/
def replyCount (bits : List Bool) : Nat := frameField bits 11 5

/-- The words of a reply, in the order received (R67). -/
def replyWords (bits : List Bool) : List StationWord :=
  (List.range (replyCount bits)).map fun i => BitVec.ofNat 16 (frameField bits (16 + 16 * i) 16)

/-- The judgment of a complete reply: the first condition of R67 that applies. `bits` stand between the start pattern
and the first end cell, so a reply that follows the format has 32 + 16 x word count of them (R64, section 11.5). -/
def judgeReply (sequence : Byte) (inCount : Nat) (bits : List Bool) : Verdict :=
  if checkGood bits = false then .badCheck
  else if 2 < replyStatus bits ∨ 16 < replyCount bits ∨ bits.length ≠ 32 + 16 * replyCount bits ∨
      (replyStatus bits ≠ 0 ∧ replyCount bits ≠ 0) then .badReply
  else if replyEcho bits ≠ sequence then .badReply
  else if replyStatus bits = 1 then .stationBusy
  else if replyStatus bits = 2 then .stationFault
  else if replyCount bits ≠ inCount then .badReply
  else .done

/-! ### The beacon (R100, section 11.5) -/

/-- The bits of a beacon that its check covers: rank to BM (bits 8 to 41). -/
def beaconBody (rank unit count matrix : Nat) (restart : Bool) (bm : Nat) : List Bool :=
  msbBits 3 rank ++ msbBits 5 unit ++ msbBits 6 count ++ msbBits 3 (Nat.log2 matrix) ++ [restart] ++ msbBits 16 bm

/-- The 61 bits of a beacon (section 11.5). -/
def beaconBits (rank unit count matrix : Nat) (restart : Bool) (bm : Nat) : List Bool :=
  let body := beaconBody rank unit count matrix restart bm
  msbBits 8 0b01010101 ++ body ++ msbBits 16 (checkOf body).toNat ++ msbBits 3 0b101

/-- The rank of a received beacon. -/
def beaconRank (bits : List Bool) : Nat := frameField bits 8 3

/-- The unit number of a received beacon. -/
def beaconUnit (bits : List Bool) : Nat := frameField bits 11 5

/-- The cycle count of a received beacon. -/
def beaconCount (bits : List Bool) : Nat := frameField bits 16 6

/-- The RESTART flag of a received beacon. -/
def beaconRestart (bits : List Bool) : Bool := bits.getD 25 false

/-- Why a received frame is rejected (R101), as the reason code of BEACON_REJECTED (section 11.3), or none if it is
valid: the first condition of R101 that applies. -/
def beaconFault (matrix bm : Nat) (bits : List Bool) : Option Nat :=
  if bits.length ≠ 61 ∨ frameField bits 0 8 ≠ 0b01010101 ∨ frameField bits 58 3 ≠ 0b101 then some 1
  else if frameField bits 42 16 ≠ (checkOf ((bits.drop 8).take 34)).toNat then some 2
  else if frameField bits 22 3 ≠ Nat.log2 matrix then some 3
  else if frameField bits 26 16 ≠ bm then some 4
  else if matrix ≤ frameField bits 16 6 then some 5
  else none

/-- The field of the beacon that holds a frame bit, as coded in RANK_CLASH and BEACON_CLASH (section 11.3). -/
def beaconFieldCode (position : Nat) : Nat :=
  if position ≤ 7 then 1
  else if position ≤ 10 then 2
  else if position ≤ 15 then 3
  else if position ≤ 21 then 4
  else if position ≤ 24 then 5
  else if position ≤ 25 then 6
  else if position ≤ 41 then 7
  else if position ≤ 57 then 8
  else 9

/-! ### Records in host memory (chapter 11) -/

/-- A number as `n` bytes, least significant first (chapter 11). -/
def leBytes (n v : Nat) : List Byte := (List.range n).map fun i => BitVec.ofNat 8 (v / 2 ^ (8 * i))

/-- The completion record (section 11.2). -/
def completionBytes (c : Completion) (phase : Bool) : List Byte :=
  leBytes 2 c.ref.tag.toNat ++ leBytes 1 c.ref.pair.val ++ leBytes 1 c.status.code ++ leBytes 2 c.ref.sqHead ++
    leBytes 2 0 ++ leBytes 4 c.result.toNat ++ leBytes 3 0 ++ leBytes 1 (bit phase)

/-- The event record (section 11.3). -/
def eventBytes (r : EventRecord) : List Byte :=
  leBytes 1 r.event.kind.code ++ leBytes 1 r.event.cycle ++ leBytes 2 r.event.subject.toNat ++
    leBytes 4 r.event.time.toNat ++ leBytes 4 r.event.detail.toNat ++ leBytes 3 0 ++ leBytes 1 (bit r.phase)

/-- Station words as bytes, 2 each, least significant first (R174). -/
def wordsBytes (words : List StationWord) : List Byte := words.flatMap fun w => leBytes 2 w.toNat

/-- The inbound slot, 64 bytes (R86, section 11.4). -/
def slotBytes (lap : Bool) (f : Firing) (words : List StationWord) : List Byte :=
  leBytes 1 (bit lap) ++ leBytes 1 f.handle ++ leBytes 1 f.cycle ++ leBytes 1 f.inCount ++ leBytes 4 f.start.toNat ++
    leBytes 24 0 ++ (wordsBytes words ++ leBytes 32 0).take 32

/-- The entry record, 16 bytes (section 11.4). -/
def entryBytes (e : Entry) : List Byte :=
  leBytes 1 e.handle ++ leBytes 1 e.kind.code ++ leBytes 1 e.lane.val ++ leBytes 1 e.period ++ leBytes 1 e.phase ++
    leBytes 1 e.outCount ++ leBytes 1 e.inCount ++ leBytes 1 e.mode.code ++ leBytes 1 e.ring.val ++
    leBytes 1 e.notify.code ++ leBytes 2 e.mark ++ leBytes 2 e.window ++ leBytes 2 0

/-- The READ ENTRY report, 32 bytes (R11, section 11.4): of an entry of the active table with its runtime record, or of
one of the edit table, whose runtime parts are zero. -/
def entryReport (e : Entry) (position : Nat) (run : Option Runtime) : List Byte :=
  entryBytes e ++ leBytes 1 position ++
    (match run with
     | some r =>
       leBytes 1 0 ++ leBytes 1 r.score ++
         leBytes 1 (bit r.disabled + 2 * bit r.waiting.isSome + 4 * bit r.current.isSome + 8 * bit r.stage.isSome)
     | none => leBytes 1 1 ++ leBytes 1 0 ++ leBytes 1 0) ++
    leBytes 12 0

/-- What is in flight on a lane, as READ LANE shows it (R81, section 11.4). -/
def Lane.inFlightCode (l : Lane) : Nat :=
  match l.inFlight with
  | none => 0
  | some x =>
    match x.source with
    | .scheduled _ => 1
    | .host _ => 2
    | .probe _ => 3

/-- The READ LANE report, 16 bytes (R81, section 11.4). -/
def laneReport (l : Lane) : List Byte :=
  leBytes 1 l.state.code ++ leBytes 1 l.rate.code ++ leBytes 1 (bit l.autoRetrain) ++ leBytes 1 l.retrainDelay ++
    leBytes 1 (bit l.staleNotify) ++ leBytes 1 l.sequence.toNat ++ leBytes 1 l.failures ++ leBytes 1 l.queue.length ++
    leBytes 1 l.inFlightCode ++
    leBytes 1 (if l.state = .training then l.probesSent else 0) ++
    leBytes 1 (if l.state = .training then l.goodRun else 0) ++
    leBytes 1 (bit (decide (l.state = .faulted) && l.retrainTimer.isSome)) ++ leBytes 4 0

/-- The READ TIME report, 32 bytes (R122, section 11.4). -/
def timeReport (t : TimeSync) : List Byte :=
  leBytes 4 t.localTime.toNat ++ leBytes 2 t.cycleTime ++ leBytes 1 t.cycleCount ++ leBytes 1 t.sync.code ++
    leBytes 1 t.role.code ++ leBytes 1 t.trimState.code ++
    leBytes 1 (if t.trimState = .suspended then t.goodRun else 0) ++
    leBytes 1 (bit t.hold + 2 * bit t.plan.isSome + 4 * bit t.lastLeader.isNone) ++
    leBytes 4 (BitVec.ofInt 32 t.trim).toNat ++
    leBytes 1 ((t.lastLeader.map Prod.fst).getD 0) ++ leBytes 1 ((t.lastLeader.map Prod.snd).getD 0) ++ leBytes 14 0

end Sys2Proof.Machine
end

