-- ==== Sys2Proof/Machine/Ops.lean ====
section
/-! DEFINITION. The named operations that every block shares: reading and replacing a pair, a lane, a ring; handing a
completion to the Queue Engine (R146, R148); posting events to the Event Writer (R157); running a host command out of the
holding place (R145). -/

namespace Sys2Proof.Machine

/-! ### Replacing one element -/

/-- Replaces ring pair `p`. -/
def State.setPair (s : State) (p : PairId) (q : Pair) : State := { s with pairs := s.pairs.set p q }

/-- Replaces lane `l`. -/
def State.setLane (s : State) (l : LaneId) (x : Lane) : State := { s with lanes := s.lanes.set l x }

/-- Replaces inbound ring `r`. -/
def State.setRing (s : State) (r : RingId) (x : InRing) : State := { s with rings := s.rings.set r x }

/-- Adds one output. -/
def State.emit (s : State) (o : Output) : State := { s with outputs := o :: s.outputs }

/-! ### Device states -/

/-- Commands are executed, and lanes, rings and the event ring serve, in CONFIG, RUNNING and HALTED (R145, R165). -/
def State.serving (s : State) : Bool :=
  match s.dev with
  | .config => true
  | .running => true
  | .halted => true
  | _ => false

/-- The time base runs while the device is RUNNING or HALTED (R99). -/
def State.timeRuns (s : State) : Bool :=
  match s.dev with
  | .running => true
  | .halted => true
  | _ => false

/-- The device is RUNNING and the sync state LOCKED: cycles are dispatched and host exchanges fitted (R25, R78). -/
def State.dispatching (s : State) : Bool := decide (s.dev = .running ∧ s.sc.sync = .locked)

/-! ### Ring pair counts (R136, R142) -/

/-- The unfetched count. -/
def Pair.unfetched (q : Pair) : Nat := (q.sqTail + q.depth - q.sqHead) % q.depth

/-- The unconsumed count. -/
def Pair.unconsumed (q : Pair) : Nat := (q.cqTail + q.depth - q.cqHead) % q.depth

/-- A pair that is ACTIVE and not deleting takes completions, tail writes and head writes (R141, R146, R149). -/
def Pair.serves (q : Pair) : Bool := decide (q.state = .active) && q.deleting.isNone

/-- `n` commands of the pair are retired without a record: they stop counting as outstanding, and a deletion in hand
counts them (R139, R140, R142). -/
def Pair.retired (q : Pair) (n : Nat) : Pair :=
  { q with
    outstanding := q.outstanding - n,
    deleting := q.deleting.map fun d => { d with retired := d.retired + n } }

/-- Retires `n` commands of pair `p` without a record. -/
def State.retire (s : State) (p : PairId) (n : Nat) : State := s.setPair p (s.pairs[p].retired n)

/-! ### Completions (R146, R148) -/

/-- The pair with the write of its oldest handed completion begun, if one is handed and none is being written (R148). -/
def Pair.begun (q : Pair) : Pair :=
  match q.writing, q.handed with
  | none, c :: rest => { q with writing := some c, handed := rest }
  | _, _ => q

/-- That write: one DMA write of 16 bytes to CQ base + 16 x CQ tail (R148). -/
def Pair.begins (q : Pair) : List Output :=
  match q.writing, q.handed with
  | none, c :: _ => [.dmaWrite (q.cqBase + BitVec.ofNat 64 (16 * q.cqTail)) (completionBytes c q.cqPhase)]
  | _, _ => []

/-- Pair `p` becomes `q`, and the write of its oldest handed completion begins if none is in progress (R148). -/
def State.beginCompletion (s : State) (p : PairId) (q : Pair) : State :=
  { s with pairs := s.pairs.set p q.begun, outputs := q.begins ++ s.outputs }

/-- The pair with one more completion handed. -/
def Pair.handing (q : Pair) (c : Completion) : Pair := { q with handed := q.handed ++ [c] }

/-- Hands a completion to the Queue Engine for the command's own pair. On a pair in ERROR, deleting or ABSENT it is
retired without a record (R146). -/
def State.complete (s : State) (ref : CmdRef) (status : Status) (result : Reg) : State :=
  if s.pairs[ref.pair].serves then s.beginCompletion ref.pair (s.pairs[ref.pair].handing ⟨ref, status, result⟩)
  else s.retire ref.pair 1

/-- Hands several completions of one status, in order. -/
def State.completeAll (s : State) (refs : List CmdRef) (status : Status) (result : Reg) : State :=
  refs.foldl (fun t ref => t.complete ref status result) s

/-! ### The Event Writer (R154, R157 to R159) -/

/-- The occupancy of the event ring (R154). -/
def EventWriter.occupancy (w : EventWriter) : Nat := (w.tail + w.depth - w.head) % w.depth

/-- Whether a record write is in progress (R158). -/
def EventWriter.writing (w : EventWriter) : Bool := !w.queue.isEmpty || w.stray

/-- Accepts a record at EQ tail with the phase in force; the tail advances, and its wrap inverts the phase (R157). -/
def EventWriter.accept (w : EventWriter) (e : Event) : EventWriter :=
  { w with
    queue := w.queue ++ [⟨w.tail, w.phase, e⟩],
    tail := if w.tail + 1 = w.depth then 0 else w.tail + 1,
    phase := if w.tail + 1 = w.depth then !w.phase else w.phase }

/-- The fate of an event posted at local time `now`: accepted, suppressed, dropped or discarded (R154, R157, R159). -/
def EventWriter.offer (w : EventWriter) (now : Count32) (e : Event) : EventWriter :=
  match w.state with
  | .absent => w
  | .error => { w with dropped := min 65535 (w.dropped + 1) }
  | .active =>
    match w.overflow with
    | some o => { w with overflow := some { o with count := min 65535 (o.count + 1) } }
    | none =>
      if w.occupancy < w.depth - 2 then w.accept e
      else { w with overflow := some { count := 1, time := now, kind := e.kind } }

/-- The DMA write that begins when the Event Writer turns to its oldest record (R158): none if the queue is empty. -/
def EventWriter.begun (w : EventWriter) : List Output :=
  match w.queue with
  | [] => []
  | r :: _ => [.dmaWrite (w.base + BitVec.ofNat 64 (16 * r.position)) (eventBytes r)]

/-- Posts events, in order. At entry into FATAL and after, none is accepted (R154). -/
def State.postAll (s : State) (events : List Event) : State :=
  if s.dev = .fatal then s
  else
    let w := events.foldl (fun w e => w.offer s.sc.localTime e) s.ew
    { s with ew := w, outputs := (if s.ew.writing then [] else w.begun) ++ s.outputs }

/-- An event with the cycle count and local time of the time base at this moment (R156). -/
def State.event (s : State) (kind : EventKind) (subject : BitVec 16) (detail : Reg) : Event :=
  { kind := kind, subject := subject, cycle := s.sc.cycleCount, time := s.sc.localTime, detail := detail }

/-- The subject of kinds that have none (R156). -/
def noSubject : BitVec 16 := 0xFFFF

/-! ### Events of two blocks in one step (R125, R157) -/

/-- One step in hand: the state so far, and the events posted in it that the Event Writer has not judged yet, those of
the Health Monitor apart from those of the other blocks, each in the order its block posted them. -/
structure Work where
  s      : State
  others : List Event
  health : List Event
  deriving DecidableEq, Repr

/-- A step begins. -/
def State.work (s : State) : Work := { s := s, others := [], health := [] }

/-- Changes the state of a step in hand. -/
def Work.on (w : Work) (f : State → State) : Work := { w with s := f w.s }

/-- A block other than the Health Monitor posts an event. -/
def Work.post (w : Work) (e : Event) : Work := { w with others := w.others ++ [e] }

/-- The Health Monitor posts an event. -/
def Work.postHealth (w : Work) (e : Event) : Work := { w with health := w.health ++ [e] }

/-- Merges the rest `ys` of one sequence into what follows `x`: helper of `merge`. -/
def mergeAfter (x : Event) (rest : List Event → Nat → List Event) : List Event → Nat → List Event
  | [], n => x :: rest [] n
  | y :: ys, n =>
    if Config.otherBlockFirst n then x :: rest (y :: ys) (n + 1) else y :: mergeAfter x rest ys (n + 1)

/-- Any one of the interleavings of two sequences, each kept in its own order: events of different blocks posted at one
instant may be accepted in either order (R157). Which one is a free value. -/
def merge : List Event → List Event → Nat → List Event
  | [], ys, _ => ys
  | x :: xs, ys, n => mergeAfter x (merge xs) ys n

/-- The step's events reach the Event Writer. Where two blocks posted, their order is free (R125, R157). -/
def Work.finish (w : Work) : State :=
  if w.health.isEmpty then w.s.postAll w.others
  else if w.others.isEmpty then w.s.postAll w.health
  else { w.s with free := w.s.free + w.others.length + w.health.length }.postAll (merge w.others w.health w.s.free)

/-- Part of a step ends: what its blocks posted precedes what later parts post (R170, R171: "in this order"). -/
def Work.flush (w : Work) : Work := w.finish.work

/-! ### Host commands (R145, R147, R173) -/

/-- The Command Processor takes the record in the holding place if it holds no command itself, the device executes
commands and the record's opcode is the one asked for (R145). -/
def State.heldCommand (s : State) (opcode : Nat) : Option Held :=
  match s.holding with
  | some h => if s.serving && s.executing.isNone && decide (recordOpcode h.record = opcode) then some h else none
  | none => none

/-- The command a held record stands for (R144, R148). -/
def Held.ref (h : Held) : CmdRef := { pair := h.pair, tag := recordTag h.record, sqHead := h.sqHead }

/-- Executes the host command with this opcode: the record leaves the holding place, and the owner acts (R145). Where
the step cannot occur, nothing changes (log entry 2). -/
def State.runCommand (s : State) (opcode : Nat) (owner : CommandRecord → CmdRef → State → State) : State :=
  match s.heldCommand opcode with
  | some h => owner h.record h.ref { s with holding := none }
  | none => s

/-- The admin-only check of R145, made before the owner's checks. -/
def adminOnly (owner : CommandRecord → CmdRef → State → State) (r : CommandRecord) (ref : CmdRef) (s : State) : State :=
  if ref.pair = 0 then owner r ref s else s.complete ref .adminOnly 0

/-- A report command begins its buffer write: the command stays in execution until the write has ended (R146, R152). -/
def State.beginReport (s : State) (ref : CmdRef) (address : HostAddr) (bytes : List Byte) : State :=
  { s with
    executing := some ref,
    buffers := s.buffers ++ [{ ref := ref, result := 0, report := true }],
    outputs := .dmaWrite address bytes :: s.outputs }

/-- The active entry with a handle (R3: at most one). -/
def State.findActive (s : State) (handle : Nat) : Option ActiveEntry :=
  s.active.find? fun a => decide (a.entry.handle = handle)

/-- Changes the runtime record of the active entry with a handle. -/
def State.updateRun (s : State) (handle : Nat) (f : Runtime → Runtime) : State :=
  { s with active := s.active.map fun a => if a.entry.handle = handle then { a with run := f a.run } else a }

/-! ### Rounding left open (log entry 6) -/

/-- `a / b` as a whole number: exact where it is whole, else rounded up or down as a free value says. -/
def roundFree (a b n : Nat) : Nat := if a % b = 0 then a / b else a / b + bit (Config.roundsUp n)

end Sys2Proof.Machine
end

