-- ==== Sys2Proof/Machine/Health.lean ====
section
/-! DEFINITION. The Health Monitor (chapter 7): miss scores, the health level, matrix records; the commands ENTRY_REARM
and MATRIX_REPORT. -/

namespace Sys2Proof.Machine

/-! ### The health level (R128, R129) -/

/-- A weak entry has a score of 8 or more (R125). -/
def ActiveEntry.isWeak (a : ActiveEntry) : Bool := decide (8 ≤ a.run.score)

/-- Weak entries of the active table (R128). -/
def State.weakCount (s : State) : Nat := s.active.countP ActiveEntry.isWeak

/-- Disabled entries of the active table (R128). -/
def State.disabledCount (s : State) : Nat := s.active.countP fun a => a.run.disabled

/-- A lane named by a lane entry of the active table is not READY while the sync state is LOCKED (R128). -/
def State.laneIsDown (s : State) : Bool :=
  decide (s.sc.sync = .locked) &&
    s.active.any fun a => a.entry.kind.isLane && decide (s.lanes[a.entry.lane].state ≠ .ready)

/-- The Health Monitor with the four conditions as they stand, and the level they give (R128). -/
def State.healthNow (s : State) : HealthMonitor :=
  { s.hm with
    weakEntry := decide (0 < s.weakCount),
    disabledEntry := decide (0 < s.disabledCount),
    trimSuspended := decide (s.sc.trimState = .suspended),
    laneDown := s.laneIsDown,
    degraded := decide (0 < s.weakCount) || decide (0 < s.disabledCount) || decide (s.sc.trimState = .suspended) ||
      s.laneIsDown }

/-- The HEALTH event (R129, section 11.3). -/
def State.healthEvent (s : State) (previous : Bool) : Event :=
  s.event .health noSubject
    (pack [(bit s.hm.degraded, 0), (bit previous, 1), (bit s.hm.weakEntry, 4), (bit s.hm.disabledEntry, 5),
      (bit s.hm.trimSuspended, 6), (bit s.hm.laneDown, 7), (s.weakCount, 8), (s.disabledCount, 17)])

/-- Evaluates the conditions again; a change of level takes effect and posts HEALTH (R129). -/
def Work.evaluate (w : Work) : Work :=
  let s := { w.s with hm := w.s.healthNow }
  if s.hm.degraded = w.s.hm.degraded then { w with s := s }
  else { w with s := s }.postHealth (s.healthEvent w.s.hm.degraded)

/-! ### The miss score (R124, R125) -/

/-- The score after an outcome (R124). -/
def scoreAfter (score : Nat) : Verdict → Nat
  | .done => score - 1
  | .noReply => min 15 (score + 2)
  | .badCheck => min 15 (score + 2)
  | .badReply => min 15 (score + 2)
  | .stationBusy => min 15 (score + 2)
  | .stationFault => min 15 (score + 2)
  | .laneNotReady => min 15 (score + 2)
  | .laneBusy => min 15 (score + 2)
  | .noValues => min 15 (score + 1)
  | .noRoom => min 15 (score + 1)
  | .ringFault => min 15 (score + 1)
  | .disabled => score

/-- The runtime record after an outcome: a disabled record keeps its score, and a score that reaches 15 sets the
disabled flag (R124, R125). -/
def Runtime.scored (r : Runtime) (o : Verdict) : Runtime :=
  if r.disabled then r
  else { r with score := scoreAfter r.score o, disabled := decide (scoreAfter r.score o = 15) }

/-- The ENTRY_FAILED event of the firing that brought the score to 15 (R125, R156). -/
def Firing.failedEvent (f : Firing) (o : Verdict) : Event :=
  { kind := .entryFailed, subject := BitVec.ofNat 16 f.handle, cycle := f.cycle, time := f.start,
    detail := pack [(o.code, 0), (f.lane.val, 8)] }

/-- The Health Monitor scores a settled outcome on the record the handle holds, if the firing still reaches it (R21,
R124, R125), and evaluates the level (R129). -/
def Work.score (w : Work) (f : Firing) (o : Verdict) : Work :=
  match (if f.attached then w.s.findActive f.handle else none) with
  | none => w
  | some a =>
    let w1 := w.on fun s => s.updateRun f.handle fun r => r.scored o
    (if !a.run.disabled && (a.run.scored o).disabled then w1.postHealth (f.failedEvent o) else w1).evaluate

/-! ### Matrix records (R130 to R134) -/

/-- The expected count of the active table: the sum of M / P over its lane entries (R130); 0 while no plan is set, when
the table is empty or the device in CONFIG. -/
def State.expectedNow (s : State) : Nat :=
  match s.sc.plan with
  | none => 0
  | some p => ((s.active.filter fun a => a.entry.kind.isLane).map fun a => p.matrix / a.entry.period).sum

/-- A count that has reached 65535 stays there (R132). -/
def capped (n : Nat) : Nat := min 65535 (n + 1)

/-- Counts an outcome into a record (R132). -/
def MatrixRecord.counted (m : MatrixRecord) (o : Verdict) : MatrixRecord :=
  match o with
  | .done => { m with done := capped m.done }
  | .noReply => { m with failed := capped m.failed }
  | .badCheck => { m with failed := capped m.failed }
  | .badReply => { m with failed := capped m.failed }
  | .stationBusy => { m with failed := capped m.failed }
  | .stationFault => { m with failed := capped m.failed }
  | .laneNotReady => { m with failed := capped m.failed }
  | .laneBusy => { m with failed := capped m.failed }
  | .noValues => { m with skipped := capped m.skipped }
  | .noRoom => { m with skipped := capped m.skipped }
  | .ringFault => { m with skipped := capped m.skipped }
  | .disabled => { m with skipped := capped m.skipped }

/-- The MATRIX_REPORT event of a record (R134, section 11.3): it carries no local time. -/
def MatrixRecord.report (m : MatrixRecord) : Event :=
  { kind := .matrixReport, subject := BitVec.ofNat 16 m.expected, cycle := m.lastCycle,
    time := pack [(m.done, 0), (m.failed, 16)],
    detail := pack [(m.skipped, 0), (bit m.isPartial, 16), (m.number, 24)] }

/-- Changes the record a matrix tag names, open or closed (R131, R132). -/
def HealthMonitor.updateRecord (h : HealthMonitor) (tag : Option Nat) (f : MatrixRecord → MatrixRecord) : HealthMonitor :=
  { h with
    openRecord := h.openRecord.map fun m => if tag = some m.id then f m else m,
    closed := h.closed.map fun m => if tag = some m.id then f m else m }

/-- Posts and discards every closed record that has no exchange in flight, oldest first (R134). -/
def Work.postReady (w : Work) : Work :=
  { w with
    s := { w.s with hm := { w.s.hm with closed := w.s.hm.closed.filter fun m => decide (m.inFlight ≠ 0) } },
    health := w.health ++ (w.s.hm.closed.filter fun m => decide (m.inFlight = 0)).map MatrixRecord.report }

/-- Counts a settled outcome in the record its tag names; that of an exchange that was started leaves the record's
in-flight count in the same action, and a closed record that it was the last of is posted (R132, R134). -/
def Work.count (w : Work) (f : Firing) (o : Verdict) (started : Bool) : Work :=
  (w.on fun s =>
    { s with hm := s.hm.updateRecord f.tag fun m =>
        { m.counted o with inFlight := if started then m.inFlight - 1 else m.inFlight } }).postReady

/-- Flags the open record PARTIAL (R133). -/
def HealthMonitor.flagPartial (h : HealthMonitor) : HealthMonitor :=
  { h with openRecord := h.openRecord.map fun m => { m with isPartial := true } }

/-- Closes the open record (R134). -/
def HealthMonitor.closeRecord (h : HealthMonitor) : HealthMonitor :=
  match h.openRecord with
  | none => h
  | some m => { h with openRecord := none, closed := h.closed ++ [m] }

/-- Begins an open record with the present matrix number, which then increases by 1 and wraps from 255 to 0 (R123,
R131, R133). -/
def HealthMonitor.beginRecord (h : HealthMonitor) (isPartial : Bool) : HealthMonitor :=
  { h with
    openRecord := some { id := h.nextId, number := h.matrixNumber, expected := h.expected, done := 0, failed := 0,
                         skipped := 0, isPartial := isPartial, lastCycle := 0, inFlight := 0 },
    matrixNumber := (h.matrixNumber + 1) % 256,
    nextId := h.nextId + 1 }

/-- The plan has matrix reports on (R131, R135). -/
def State.reportsOn (s : State) : Bool := (s.sc.plan.map Plan.reports).getD false

/-! ### ENTRY_REARM and MATRIX_REPORT -/

/-- ENTRY REARM on its handle (R126). -/
def rearmOwner (r : CommandRecord) (ref : CmdRef) (s : State) : State :=
  if reservedZero r [(8, 8)] = false then s.complete ref .badField 0
  else
    match s.findActive (recordByte r 8) with
    | none => s.complete ref .noEntry 0
    | some a =>
      ((s.updateRun (recordByte r 8) fun x => { x with score := 0, disabled := false }).complete ref .ok
        (pack [(a.run.score, 0), (bit a.run.disabled, 8)])).work.evaluate.finish

/-- ENTRY_REARM (R126). -/
def execEntryRearm (s : State) : Host.Outcome State Fault Refusal := .next (s.runCommand 0x12 rearmOwner)

/-- MATRIX_REPORT (R134): closed records with no exchange in flight are posted and discarded. The actions that close a
record or settle its last exchange do the same at once, so this step finds none after them (log entry 16). -/
def execMatrixReport (s : State) : Host.Outcome State Fault Refusal :=
  .next (if s.serving then s.work.postReady.finish else s)

end Sys2Proof.Machine
end

