-- ==== Sys2Proof/Machine/Values.lean ====
section
/-! DEFINITION. The Value Store (chapter 3): staging, the take at the mark, the conclusion; the handing on of a settled
outcome to the blocks that take it (R37); the commands STAGE_VALUES and ENTRY_CLEAR_VALUES. -/

namespace Sys2Proof.Machine

/-! ### The take at the mark (R49, R50) -/

/-- The value set taken under the entry's mode and the runtime record afterwards, or none: NO_VALUES. A taken pending
set makes a STAGED deferred STAGE ON_WIRE. -/
def Runtime.take (r : Runtime) (mode : ValueMode) : Option (List StationWord × Runtime) :=
  match r.waiting with
  | some v =>
    some (v, { r with waiting := none, current := some v, stage := r.stage.map fun d => { d with onWire := true } })
  | none =>
    match mode, r.current with
    | .hold, some v => some (v, r)
    | _, _ => none

/-! ### Conclusion (R48, R52) -/

/-- The runtime record after the outcome of a firing that took a set: a ONE_SHOT current slot is emptied, an ON_WIRE
STAGE becomes absent (R48, R52). -/
def Runtime.settled (r : Runtime) (mode : ValueMode) : Runtime :=
  { r with
    current := if mode = .oneShot then none else r.current,
    stage := r.stage.filter fun d => !d.onWire }

/-- The completion of an ON_WIRE deferred STAGE (R48). -/
def State.completeStage (s : State) (d : DeferredStage) (f : Firing) (o : Verdict) : State :=
  s.complete d.ref (if o = .done then .ok else .exchangeFailed) (pack [(o.code, 0), (f.cycle, 8)])

/-- The Value Store takes the settled outcome of a firing that took a set (R52). -/
def State.settleValues (s : State) (f : Firing) (o : Verdict) : State :=
  match (if f.attached then s.findActive f.handle else none) with
  | none => s
  | some a =>
    let t := s.updateRun f.handle fun r => r.settled a.entry.mode
    match a.run.stage with
    | some d => if d.onWire then t.completeStage d f o else t
    | none => t

/-! ### Handing on a settled outcome (R37, R38) -/

/-- Which outcomes a notify field posts (R38). -/
def Notify.wants (n : Notify) (o : Verdict) : Bool :=
  match n with
  | .none => false
  | .failures => decide (o ≠ .done ∧ o ≠ .disabled)
  | .all => true

/-- The ENTRY_OUTCOME event (R38, section 11.3); `slot` is the index of the slot written, for a FETCH or SWAP settled
DONE, else 0. -/
def Firing.outcomeEvent (f : Firing) (o : Verdict) (slot : Nat) : Event :=
  { kind := .entryOutcome, subject := BitVec.ofNat 16 f.handle, cycle := f.cycle, time := f.start,
    detail := pack [(o.code, 0), (f.lane.val, 8), (slot, 16)] }

/-- A settled outcome is handed on under the identity of its firing (R37): to the Health Monitor, which scores and
counts it, to the Value Store if the firing took a set, and to the Event Writer as notify asks. -/
def Work.settle (w : Work) (f : Firing) (o : Verdict) (slot : Nat) (started : Bool) : Work :=
  let w1 := (w.score f o).count f o started
  let w2 := if started && f.kind.sends then w1.on fun s => s.settleValues f o else w1
  if f.notify.wants o then w2.post (f.outcomeEvent o slot) else w2

/-! ### STAGE_VALUES (R45 to R47) -/

/-- The runtime record after a STAGE (R46, R47): the new set is in the pending slot; with confirm the command becomes
the deferred STAGE, without it only a STAGED one ends. -/
def Runtime.staged (r : Runtime) (words : List StationWord) (confirm : Option CmdRef) : Runtime :=
  { r with
    waiting := some words,
    stage :=
      match confirm with
      | some ref => some { ref := ref, onWire := false }
      | none => r.stage.filter fun d => d.onWire }

/-- The deferred STAGE that a new STAGE completes SUPERSEDED: with confirm any, without it only a STAGED one (R46,
R47). -/
def Runtime.superseded (r : Runtime) (confirm : Bool) : Option DeferredStage :=
  r.stage.filter fun d => confirm || !d.onWire

/-- Completes a superseded STAGE on its own ring pair. -/
def State.supersede (s : State) (old : Option DeferredStage) : State :=
  match old with
  | some d => s.complete d.ref .superseded 0
  | none => s

/-- STAGE VALUES on its handle, count, confirm flag and words (R45). -/
def stageOwner (r : CommandRecord) (ref : CmdRef) (s : State) : State :=
  let count := recordByte r 9
  match flagByte (recordByte r 10) with
  | none => s.complete ref .badField 0
  | some confirm =>
    if count < 1 ∨ 16 < count ∨ reservedZero r ([(8, 10)] ++ wordBytes count) = false then s.complete ref .badField 0
    else
      match s.findActive (recordByte r 8) with
      | none => s.complete ref .noEntry 0
      | some a =>
        if a.entry.kind.sends = false then s.complete ref .wrongKind 0
        else if count ≠ a.entry.outCount then s.complete ref .countMismatch 0
        else
          let t := s.updateRun (recordByte r 8) fun x =>
            x.staged (recordWords r count) (if confirm then some ref else none)
          let t1 := t.supersede (a.run.superseded confirm)
          if confirm then t1
          else t1.complete ref .ok (pack [(bit a.run.waiting.isSome, 0), (bit (a.run.superseded false).isSome, 1)])

/-- STAGE_VALUES (R45). -/
def execStageValues (s : State) : Host.Outcome State Fault Refusal := .next (s.runCommand 0x10 stageOwner)

/-! ### ENTRY_CLEAR_VALUES (R53) -/

/-- A deferred STAGE that is cleared completes CANCELLED on its own ring pair (R53). -/
def State.cancelStage (s : State) (old : Option DeferredStage) : State :=
  match old with
  | some d => s.complete d.ref .cancelled 0
  | none => s

/-- ENTRY CLEAR VALUES on its handle (R53). -/
def clearOwner (r : CommandRecord) (ref : CmdRef) (s : State) : State :=
  if reservedZero r [(8, 8)] = false then s.complete ref .badField 0
  else
    match s.findActive (recordByte r 8) with
    | none => s.complete ref .noEntry 0
    | some a =>
      if a.entry.kind.sends = false then s.complete ref .wrongKind 0
      else
        ((s.updateRun (recordByte r 8) fun x => { x with waiting := none, current := none, stage := none }).cancelStage
            a.run.stage).complete ref .ok
          (pack [(bit a.run.waiting.isSome, 0), (bit a.run.current.isSome, 1), (bit a.run.stage.isSome, 2)])

/-- ENTRY_CLEAR_VALUES (R53). -/
def execEntryClearValues (s : State) : Host.Outcome State Fault Refusal := .next (s.runCommand 0x11 clearOwner)

end Sys2Proof.Machine
end

