-- ==== Sys2Proof/Machine/Rings.lean ====
section
/-! DEFINITION. The Inbound Ring Writer (chapter 5): reservations, slot writes; the commands RING_CREATE, RING_RELEASE,
RING_DELETE, SLOT_WRITE_START, SLOT_WRITE_END and RING_DELETE_FINISH. -/

namespace Sys2Proof.Machine

/-! ### Counters (R83) -/

/-- Slots written and not returned. -/
def InRing.unreturned (r : InRing) : Nat := (r.written - r.returned).toNat

/-- The occupancy of a ring (R83). -/
def InRing.occupancy (r : InRing) : Nat := r.unreturned + r.reserved

/-- The position that the next write takes (R83, R86). -/
def InRing.position (r : InRing) : Nat := r.written.toNat % r.slotCount

/-- A ring is ACTIVE for the checks of R14 and R23: a closing ring counts as not ACTIVE (R93). -/
def InRing.usable (r : InRing) : Bool := decide (r.state = .active) && r.closing.isNone

/-! ### Reservation (R85, R88) -/

/-- The answer to a reservation: an outcome that refuses it, or the descriptor with one more reserved (R85). A ring that
is not ACTIVE answers as one in ERROR: the active table names no ABSENT ring while the device is RUNNING. -/
def InRing.reserve (r : InRing) : Except Verdict InRing :=
  if r.state ≠ .active then .error .ringFault
  else if r.slotCount ≤ r.occupancy then .error .noRoom
  else .ok { r with reserved := r.reserved + 1 }

/-- A reservation is returned (R88). -/
def InRing.returnOne (r : InRing) : InRing := { r with reserved := r.reserved - 1 }

/-- Returns the reservation of a firing that fetches words (R88); other firings hold none. -/
def State.returnSlot (s : State) (f : Firing) : State :=
  if f.kind.receives then s.setRing f.ring (s.rings[f.ring].returnOne) else s

/-- The exchange in flight leaves the lane, which is then idle (R66). -/
def State.leaveLane (s : State) (l : LaneId) : State := s.setLane l { s.lanes[l] with inFlight := none }

/-! ### Slot writes (R86 to R89) -/

/-- The firing whose outcome the slot write of a lane will settle (R66). -/
def State.settlingFiring (s : State) (l : LaneId) : Option Firing :=
  match s.lanes[l].inFlight with
  | some x =>
    match x.source with
    | .scheduled f => if x.settling then some f else none
    | _ => none
  | none => none

/-- The descriptor after a slot write that ended without error (R87). -/
def InRing.wrote (r : InRing) : InRing :=
  { r with
    written := r.written + 1,
    reserved := r.reserved - 1,
    lap := if (r.written + 1).toNat % r.slotCount = 0 then !r.lap else r.lap }

/-- The RING_FAULT event (R89, R156, section 11.3). -/
def Firing.ringFaultEvent (f : Firing) (position : Nat) : Event :=
  { kind := .ringFault, subject := BitVec.ofNat 16 f.ring.val, cycle := f.cycle, time := f.start,
    detail := pack [(f.handle, 0), (position, 16)] }

/-- SLOT_WRITE_START: the write at the head of the write queue begins on an ACTIVE ring, or its reservation is returned
and its exchange settled RING_FAULT (R86, R88). A slot that would lie beyond the last host address lies at its address
modulo 2^64 (log entry 38). -/
def State.slotWriteStart (s : State) : State :=
  match s.serving && !s.slotWriting, s.slotQueue with
  | true, w :: rest =>
    match s.settlingFiring w.lane with
    | none => s
    | some f =>
      if s.rings[f.ring].state = .active then
        { s with
          slotWriting := true,
          outputs := .dmaWrite (s.rings[f.ring].base + BitVec.ofNat 64 (64 * s.rings[f.ring].position))
            (slotBytes s.rings[f.ring].lap f w.words) :: s.outputs }
      else
        (((({ s with slotQueue := rest }.returnSlot f).leaveLane w.lane).work).settle f .ringFault 0 true).finish
  | _, _ => s

/-- SLOT_WRITE_END (R87, R89). -/
def State.slotWriteEnd (s : State) (result : DmaWrite) : State :=
  match s.serving && s.slotWriting, s.slotQueue with
  | true, w :: rest =>
    match s.settlingFiring w.lane with
    | none => s
    | some f =>
      let ring := s.rings[f.ring]
      let t := { s with slotQueue := rest, slotWriting := false }.leaveLane w.lane
      match result with
      | .ok => (((t.setRing f.ring ring.wrote).work).settle f .done ring.position true).finish
      | .error =>
        ((((t.setRing f.ring { ring.returnOne with state := .error }).work).post
          (f.ringFaultEvent ring.position)).settle f .ringFault 0 true).finish
  | _, _ => s

/-! ### RING_CREATE (R84) -/

/-- RING CREATE on its ring, slot count and base (R84). -/
def ringCreateOwner (r : CommandRecord) (ref : CmdRef) (s : State) : State :=
  match ringOfByte (recordByte r 8) with
  | none => s.complete ref .badField 0
  | some i =>
    if aligned64 (recordAddress r 16) = false ∨ powerOfTwoIn 2 4096 (recordField16 r 12) = false ∨
        reservedZero r [(8, 8), (12, 13), (16, 23)] = false then s.complete ref .badField 0
    else if s.rings[i].state ≠ .absent ∨ s.rings[i].closing.isSome then s.complete ref .inUse 0
    else
      (s.setRing i
        { InRing.reset with
          state := .active, base := recordAddress r 16, slotCount := recordField16 r 12 }).complete ref .ok 0

/-- RING_CREATE (R84), admin-only. -/
def execRingCreate (s : State) : Host.Outcome State Fault Refusal := .next (s.runCommand 0x30 (adminOnly ringCreateOwner))

/-! ### RING_RELEASE (R90) -/

/-- RING RELEASE on its ring and new returned count (R90). -/
def ringReleaseOwner (r : CommandRecord) (ref : CmdRef) (s : State) : State :=
  match ringOfByte (recordByte r 8) with
  | none => s.complete ref .badField 0
  | some i =>
    if reservedZero r [(8, 8), (12, 15)] = false then s.complete ref .badField 0
    else if s.rings[i].state = .absent then s.complete ref .ringAbsent 0
    else if s.rings[i].unreturned < (recordField32 r 12 - s.rings[i].returned).toNat then s.complete ref .badIndex 0
    else
      (s.setRing i { s.rings[i] with returned := recordField32 r 12 }).complete ref .ok
        (s.rings[i].written - recordField32 r 12)

/-- RING_RELEASE (R90). -/
def execRingRelease (s : State) : Host.Outcome State Fault Refusal := .next (s.runCommand 0x31 ringReleaseOwner)

/-! ### RING_DELETE and RING_DELETE_FINISH (R92, R93) -/

/-- A FETCH or SWAP entry names the ring. -/
def Entry.namesRing (i : RingId) (e : Entry) : Bool := e.kind.receives && decide (e.ring = i)

/-- The entries that a pending commit references: those of the edit table while a commit is pending (R17). -/
def State.committing (s : State) : List Entry :=
  match s.session with
  | some x => if x.commit.isSome then s.edit else []
  | none => []

/-- A ring is named by an entry of the active table or of a pending commit (R92). -/
def State.ringInUse (s : State) (i : RingId) : Bool :=
  s.active.any (fun a => a.entry.namesRing i) || s.committing.any (Entry.namesRing i)

/-- A write of the write queue is addressed to the ring. -/
def State.ringQueued (s : State) (i : RingId) : Bool :=
  s.slotQueue.any fun w => decide ((s.settlingFiring w.lane).map Firing.ring = some i)

/-- The outstanding work of a ring: its reservations and its writes in the write queue (R93). -/
def State.ringHasWork (s : State) (i : RingId) : Bool := decide (s.rings[i].reserved ≠ 0) || s.ringQueued i

/-- RING DELETE on its ring (R92, R93). -/
def ringDeleteOwner (r : CommandRecord) (ref : CmdRef) (s : State) : State :=
  match ringOfByte (recordByte r 8) with
  | none => s.complete ref .badField 0
  | some i =>
    if reservedZero r [(8, 8)] = false then s.complete ref .badField 0
    else if s.rings[i].state = .absent then s.complete ref .ringAbsent 0
    else if s.rings[i].closing.isSome then s.complete ref .wrongState 0
    else if s.ringInUse i then s.complete ref .inUse 0
    else if s.ringHasWork i then s.setRing i { s.rings[i] with closing := some ref }
    else (s.setRing i InRing.reset).complete ref .ok s.rings[i].written

/-- RING_DELETE (R92), admin-only. -/
def execRingDelete (s : State) : Host.Outcome State Fault Refusal := .next (s.runCommand 0x32 (adminOnly ringDeleteOwner))

/-- RING_DELETE_FINISH: a closing ring with no outstanding work becomes ABSENT, and RING DELETE completes OK with the
written count (R93). -/
def State.ringDeleteFinish (s : State) (i : RingId) : State :=
  match s.rings[i].closing with
  | none => s
  | some ref =>
    if s.serving && !s.ringHasWork i then (s.setRing i InRing.reset).complete ref .ok s.rings[i].written else s

/-- RING_DELETE_FINISH (R93). -/
def execRingDeleteFinish (ring : RingId) (s : State) : Host.Outcome State Fault Refusal := .next (s.ringDeleteFinish ring)

/-- SLOT_WRITE_START (R86). -/
def execSlotWriteStart (s : State) : Host.Outcome State Fault Refusal := .next s.slotWriteStart

/-- SLOT_WRITE_END (R87, R89). -/
def execSlotWriteEnd (result : DmaWrite) (s : State) : Host.Outcome State Fault Refusal := .next (s.slotWriteEnd result)

end Sys2Proof.Machine
end

