-- ==== Sys2Proof/Machine/Lanes.lean ====
section
/-! DEFINITION. The Lane Controllers (chapter 4): sending requests, judging replies, failures in a row, training, host
exchanges; the commands LANE_CONFIGURE, TRAIN_LANE, LANE_EXCHANGE, READ_LANE, REPLY_COMPLETE, EXCHANGE_DEADLINE,
LINE_IDLE_TIMEOUT, STALE_FRAME, PROBE_INTERVAL, RETRAIN_TIMER_EXPIRY, HOST_EXCHANGE_START, LANE_FRAME_BEGINS and
CUT_OFF_REPLY_ENDS. -/

namespace Sys2Proof.Machine

/-! ### The minimum window (R15) -/

/-- Reference clocks that one bit lasts (R15). -/
def LaneRate.clocksPerBit : LaneRate → Nat
  | .mbit12 => 8
  | .mbit25 => 4
  | .mbit50 => 2

/-- The clocks that an exchange needs: both frames and the station turnaround (R15). -/
def exchangeClocks (outCount inCount : Nat) (rate : LaneRate) : Nat :=
  ((60 + 16 * outCount) + (52 + 16 * inCount)) * rate.clocksPerBit + 200

/-- The minimum window: that time in nominal STU, rounded up (R15). -/
def minimumWindow (outCount inCount : Nat) (rate : LaneRate) (stu : Nat) : Nat :=
  (exchangeClocks outCount inCount rate + (stu - 1)) / stu

/-- The nominal STU length of the plan, or 100 clocks if no plan is set (R66, R76). -/
def State.nominalStu (s : State) : Nat := (s.sc.plan.map Plan.stu).getD Config.defaultStu

/-! ### Marks and the lane outlook (R28, R39) -/

/-- An entry fires in cycle `count` when count mod P equals its phase (R28). -/
def Entry.fires (e : Entry) (count : Nat) : Bool := decide (count % e.period = e.phase)

/-- The lane outlook: the mark of the lane's next entry that fires in the cycle in hand and has not been acted for yet,
else BM (R39). -/
def State.outlook (s : State) (c : CycleInHand) (l : LaneId) : Nat :=
  match (s.active.drop c.position).find? fun a =>
      a.entry.kind.isLane && decide (a.entry.lane = l) && a.entry.fires c.count with
  | some a => a.entry.mark
  | none => (s.sc.plan.map Plan.bm).getD 0

/-! ### Sending (R63, R65) -/

/-- Sends a request: the frame carries the lane's sequence number, which then increases by one, and the exchange is the
lane's exchange in flight (R63, R65, R66). DESIGN CHOICE, unsafe: the frame is listed whole at its start and nothing cuts
it, also where the lane goes OFF or FAULTED while it is on the line; R63 has a request sent whole, R61 and R71 have the
transmitter go idle (log entry 39). DESIGN CHOICE, unsafe: an exchange that starts while the request before it is still on
the line lists its frame at once, with no wait, and both frames stand whole; no rule says which of the two gives way (log
entry 45). -/
def State.sendRequest (s : State) (l : LaneId) (source : ExchangeSource) (kind : Kind) (words : List StationWord)
    (inCount : Nat) (deadline : Deadline) : State :=
  (s.setLane l
    { s.lanes[l] with
      sequence := s.lanes[l].sequence + 1,
      inFlight := some { source := source, sequence := s.lanes[l].sequence, inCount := inCount, deadline := deadline,
                         settling := false } }).emit
    (.laneFrame l s.lanes[l].rate (requestCells kind s.lanes[l].sequence words inCount))

/-! ### Changes of lane state (R58, R82) -/

/-- The causes of LANE_STATE (R82), by their codes (section 11.3). -/
inductive LaneCause where
  | enabled | disabled | trained | trainingFailed | failures | retrain | trainCommand | rateChange
  deriving DecidableEq, Repr

/-- The cause codes (section 11.3). -/
def LaneCause.code : LaneCause → Nat
  | .enabled => 1
  | .disabled => 2
  | .trained => 3
  | .trainingFailed => 4
  | .failures => 5
  | .retrain => 6
  | .trainCommand => 7
  | .rateChange => 8

/-- A change of lane state posts LANE_STATE and is handed to the Health Monitor (R58, R82, R129). -/
def Work.laneChange (w : Work) (l : LaneId) (x : Lane) (cause : LaneCause) : Work :=
  ((w.on fun s => s.setLane l x).post
    (w.s.event .laneState (BitVec.ofNat 16 l.val)
      (pack [(x.state.code, 0), (w.s.lanes[l].state.code, 8), (cause.code, 16)]))).evaluate

/-- A probe of an abandoned run: its judgment is ignored (R74). -/
def Exchange.abandonProbe (x : Exchange) : Exchange :=
  match x.source with
  | .probe _ => { x with source := .probe false }
  | _ => x

/-- A lane that begins a training run (R70, R72, R74): its first probe is due as soon as no exchange is in flight. -/
def Lane.beginRun (x : Lane) : Lane :=
  { x with
    state := .training, failures := 0, probesSent := 0, goodRun := 0, probeWait := 0, retrainTimer := none,
    inFlight := x.inFlight.map Exchange.abandonProbe }

/-- A lane that enters FAULTED (R71). What is still on the line of its last request is not cut (log entry 39). -/
def Lane.fault (x : Lane) : Lane :=
  { x with
    state := .faulted, queue := [], receiver := .idle,
    retrainTimer := if x.autoRetrain then some (x.retrainDelay * Config.clocksPerMs) else none }

/-- A lane that enters OFF (R61). What is still on the line of its last request is not cut (log entry 39). -/
def Lane.turnOff (x : Lane) : Lane :=
  { x with
    state := .off, queue := [], waitingTrain := none, retrainTimer := none, probesSent := 0, goodRun := 0,
    probeWait := 0, sequence := 0, failures := 0, receiver := .idle }

/-- The commands of the waiting host exchanges, oldest first. -/
def Lane.waitingRefs (x : Lane) : List CmdRef := x.queue.map fun q => q.exchange.ref

/-- The lane enters FAULTED: waiting host exchanges complete LANE_NOT_READY (R71). -/
def Work.fault (w : Work) (l : LaneId) (cause : LaneCause) : Work :=
  (w.on fun s => s.completeAll s.lanes[l].waitingRefs .laneNotReady 0).laneChange l w.s.lanes[l].fault cause

/-- Completes a waiting TRAIN LANE, if there is one. -/
def State.completeTrain (s : State) (l : LaneId) (status : Status) : State :=
  match s.lanes[l].waitingTrain with
  | none => s
  | some ref => (s.setLane l { s.lanes[l] with waitingTrain := none }).complete ref status 0

/-! ### Conclusion of an exchange (R66 to R75, R79) -/

/-- Judgments that count as failures in a row (R70). -/
def Verdict.isMiss : Verdict → Bool
  | .noReply => true
  | .badCheck => true
  | .badReply => true
  | _ => false

/-- The consecutive-failure count of a READY lane follows the judgment; at 6 the lane enters FAULTED (R70, R71). -/
def Work.countFailure (w : Work) (l : LaneId) (j : Verdict) : Work :=
  if w.s.lanes[l].state ≠ .ready then w
  else if j.isMiss = false then w.on fun s => s.setLane l { s.lanes[l] with failures := 0 }
  else
    let w1 := w.on fun s => s.setLane l { s.lanes[l] with failures := s.lanes[l].failures + 1 }
    if w.s.lanes[l].failures + 1 < Config.failureLimit then w1 else w1.fault l .failures

/-- The judgment of a training probe of the present run (R73). -/
def Work.concludeProbe (w : Work) (l : LaneId) (j : Verdict) : Work :=
  let x := w.s.lanes[l]
  let good := if j = .done then x.goodRun + 1 else 0
  let w1 := w.on fun s => s.setLane l { s.lanes[l] with goodRun := good }
  if good = 4 then
    (w1.laneChange l { w1.s.lanes[l] with state := .ready } .trained).on fun s => s.completeTrain l .ok
  else if x.probesSent = 64 then (w1.on fun s => s.completeTrain l .laneTrainFailed).fault l .trainingFailed
  else w1

/-- The judgment of a scheduled exchange (R36, R66, R86, R88): a FETCH or SWAP judged DONE joins the write queue and
stays in flight; every other judgment is settled at once, with its reservation returned. -/
def Work.concludeScheduled (w : Work) (l : LaneId) (x : Exchange) (f : Firing) (j : Verdict)
    (words : List StationWord) : Work :=
  if j = .done ∧ f.kind.receives = true then
    w.on fun s =>
      { s.setLane l { s.lanes[l] with inFlight := some { x with settling := true } } with
        slotQueue := s.slotQueue ++ [{ lane := l, words := words }] }
  else (w.on fun s => (s.returnSlot f).leaveLane l).settle f j 0 true

/-- The result of a LANE EXCHANGE: the judgment and the sequence number of its request (section 11.2). -/
def exchangeResult (j : Verdict) (sequence : Byte) : Reg := pack [(j.code, 0), (sequence.toNat, 8)]

/-- The judgment of a host exchange (R79): a DONE FETCH or SWAP writes its words before the completion; on a pair in
ERROR or deleting no words are written (R80). -/
def State.concludeHost (s : State) (l : LaneId) (x : Exchange) (h : HostExchange) (j : Verdict)
    (words : List StationWord) : State :=
  let t := s.leaveLane l
  if j ≠ .done then t.complete h.ref .exchangeFailed (exchangeResult j x.sequence)
  else if h.kind.receives && s.pairs[h.ref.pair].serves then
    { t with
      buffers := t.buffers ++ [{ ref := h.ref, result := exchangeResult j x.sequence, report := false }],
      outputs := .dmaWrite h.address (wordsBytes words) :: t.outputs }
  else t.complete h.ref .ok (exchangeResult j x.sequence)

/-- The exchange in flight concludes with a judgment (R66). -/
def Work.conclude (w : Work) (l : LaneId) (j : Verdict) (words : List StationWord) : Work :=
  match w.s.lanes[l].inFlight with
  | none => w
  | some x =>
    match x.source with
    | .probe current =>
      let w1 := w.on fun s => s.leaveLane l
      if current then w1.concludeProbe l j else w1
    | .scheduled f => (w.concludeScheduled l x f j words).countFailure l j
    | .host h => (w.on fun s => s.concludeHost l x h j words).countFailure l j

/-- The lane has an exchange in flight that has not concluded (R66, R67). -/
def Lane.awaitsReply (x : Lane) : Bool :=
  match x.inFlight with
  | some e => !e.settling
  | none => false

/-- The lane's receiver listens: TRAINING and READY (R58). -/
def Lane.listens (x : Lane) : Bool := decide (x.state = .training ∨ x.state = .ready)

/-- The lane with another receiver. -/
def State.setReceiver (s : State) (l : LaneId) (r : Receiver) : State :=
  s.setLane l { s.lanes[l] with receiver := r }

/-- LANE_FRAME_BEGINS (R67, R69): the frame is the reply of the exchange in flight, or stale. -/
def State.laneFrameBegins (s : State) (l : LaneId) : State :=
  if s.serving && s.lanes[l].listens && decide (s.lanes[l].receiver = .idle) then
    s.setReceiver l (if s.lanes[l].awaitsReply then .reply else .stale s.lanes[l].staleNotify)
  else s

/-- The judgment and the words of the reply in the receiver (R67). -/
def Lane.judge (x : Lane) (bits : List Bool) : Verdict :=
  match x.inFlight with
  | some e => judgeReply e.sequence e.inCount bits
  | none => .badReply

/-- REPLY_COMPLETE (R67): it occurs when the cells received complete the reply's end pattern (R176). -/
def State.replyComplete (s : State) (l : LaneId) (cells : List LineCell) : State :=
  match replyOf cells with
  | some bits =>
    if s.serving && decide (s.lanes[l].receiver = .reply) && s.lanes[l].awaitsReply then
      ((s.setReceiver l .idle).work.conclude l (s.lanes[l].judge bits) (replyWords bits)).finish
    else s
  | none => s

/-- The deadline of an exchange has passed (R66). -/
def State.deadlinePassed (s : State) (d : Deadline) : Bool :=
  match d with
  | .atLocal t => decide (s.sc.localTime = t)
  | .inClocks n => decide (n = 0)

/-- The exchange in flight of the lane has reached its deadline without a judgment (R68). -/
def State.deadlineDue (s : State) (l : LaneId) : Bool :=
  s.serving &&
    match s.lanes[l].inFlight with
    | some e => !e.settling && s.deadlinePassed e.deadline
    | none => false

/-- EXCHANGE_DEADLINE (R68): the judgment is NO_REPLY, and a reply still arriving is cut off. -/
def State.exchangeDeadline (s : State) (l : LaneId) : State :=
  if s.deadlineDue l then
    ((if s.lanes[l].receiver = .reply then s.setReceiver l .cutOff else s).work.conclude l .noReply []).finish
  else s

/-- CUT_OFF_REPLY_ENDS (R68): the receiver is free again without notice. -/
def State.cutOffReplyEnds (s : State) (l : LaneId) : State :=
  if s.serving && decide (s.lanes[l].receiver = .cutOff) then s.setReceiver l .idle else s

/-- The sequence echo of a stale frame as received (R69). -/
def staleEcho (bits : List Bool) : Byte := if 8 ≤ bits.length then replyEcho bits else Config.shortEcho bits

/-- A stale frame has ended: LANE_STALE_REPLY is posted if stale notify was on when it began (R62, R69). -/
def State.endStale (s : State) (l : LaneId) (notify good : Bool) (bits : List Bool) : State :=
  let t := s.setReceiver l .idle
  if notify then
    t.postAll [t.event .laneStaleReply (BitVec.ofNat 16 l.val)
      (pack [((staleEcho bits).toNat, 0), (bit good, 8), (s.lanes[l].sequence.toNat, 16)])]
  else t

/-- STALE_FRAME (R69): the stale frame ends as its cells complete its end pattern (R176), and is discarded. -/
def State.staleFrame (s : State) (l : LaneId) (cells : List LineCell) : State :=
  match s.serving, s.lanes[l].receiver, replyOf cells with
  | true, .stale notify, some bits => s.endStale l notify (checkGood bits) bits
  | _, _, _ => s

/-- LINE_IDLE_TIMEOUT (R64): the frame has ended without an end pattern. A reply is judged BAD_CHECK, a stale frame is
discarded, and the remainder of a cut-off reply is over (R68, R69). DEDUCED, unsafe: the stale frame's check is shown not
good, since the check is what stands before an end pattern; R69 does not state it (log entry 41). -/
def State.lineIdleTimeout (s : State) (l : LaneId) (cells : List LineCell) : State :=
  if s.serving = false ∨ (replyOf cells).isSome = true then s
  else
    match s.lanes[l].receiver with
    | .idle => s
    | .reply => if s.lanes[l].awaitsReply then ((s.setReceiver l .idle).work.conclude l .badCheck []).finish else s
    | .stale notify => s.endStale l notify false (frameBits cells)
    | .cutOff => s.setReceiver l .idle

/-! ### Training (R72, R71) -/

/-- The next training probe is due: the run's first as soon as the lane is idle, the others 256 microseconds after the
start of the one before (R72). -/
def State.probeDue (s : State) (l : LaneId) : Bool :=
  s.serving && decide (s.lanes[l].state = .training) && s.lanes[l].inFlight.isNone &&
    decide (s.lanes[l].probeWait = 0) && decide (s.lanes[l].probesSent < 64)

/-- PROBE_INTERVAL (R65, R72): a probe is sent; the run's first carries sequence number 0. -/
def State.probeInterval (s : State) (l : LaneId) : State :=
  if s.probeDue l then
    (s.setLane l
      { s.lanes[l] with
        sequence := if s.lanes[l].probesSent = 0 then 0 else s.lanes[l].sequence,
        probesSent := s.lanes[l].probesSent + 1,
        probeWait := Config.probeInterval }).sendRequest l (.probe true) .probe [] 0 (.inClocks Config.probeDeadline)
  else s

/-- The retrain timer of a FAULTED lane has run out (R71). -/
def State.retrainDue (s : State) (l : LaneId) : Bool :=
  s.serving && decide (s.lanes[l].state = .faulted) && decide (s.lanes[l].retrainTimer = some 0)

/-- RETRAIN_TIMER_EXPIRY (R71). -/
def State.retrainTimerExpiry (s : State) (l : LaneId) : State :=
  if s.retrainDue l then (s.work.laneChange l s.lanes[l].beginRun .retrain).finish else s

/-! ### Host exchanges (R76 to R78) -/

/-- The oldest waiting host exchange of the lane may start (R78). -/
def State.hostMayStart (s : State) (l : LaneId) : Bool :=
  match s.lanes[l].queue with
  | [] => false
  | q :: _ =>
    s.serving && decide (s.lanes[l].state = .ready) && s.lanes[l].inFlight.isNone &&
      if s.dispatching then
        match s.cycle with
        | some c => decide (q.exchange.window + s.sc.cycleTime ≤ s.outlook c l)
        | none => false
      else true

/-- The deadline of a host exchange that starts now (R66). -/
def State.hostDeadline (s : State) (h : HostExchange) : Deadline :=
  if s.timeRuns then .atLocal (s.sc.localTime + BitVec.ofNat 32 h.window) else .inClocks (h.window * s.nominalStu)

/-- HOST_EXCHANGE_START (R78): the oldest leaves the queue and its request is sent. -/
def State.hostExchangeStart (s : State) (l : LaneId) : State :=
  match s.hostMayStart l, s.lanes[l].queue with
  | true, q :: rest =>
    (s.setLane l { s.lanes[l] with queue := rest }).sendRequest l (.host q.exchange) q.exchange.kind
      q.exchange.outWords q.exchange.inCount (s.hostDeadline q.exchange)
  | _, _ => s

/-! ### LANE_CONFIGURE (R60 to R62) -/

/-- A lane entry names the lane. -/
def Entry.namesLane (l : LaneId) (e : Entry) : Bool := e.kind.isLane && decide (e.lane = l)

/-- A lane is named by the active table or by a pending commit (R60). -/
def State.laneInUse (s : State) (l : LaneId) : Bool :=
  s.active.any (fun a => a.entry.namesLane l) || s.committing.any (Entry.namesLane l)

/-- The exchange in flight is abandoned as the lane is disabled (R61): a scheduled one is settled NO_REPLY, a host one
completes EXCHANGE_FAILED, a probe is dropped, and one that waits for its slot write stays. -/
def Work.abandon (w : Work) (l : LaneId) : Work :=
  match w.s.lanes[l].inFlight with
  | none => w
  | some x =>
    if x.settling then w
    else
      match x.source with
      | .probe _ => w.on fun s => s.leaveLane l
      | .scheduled f => (w.on fun s => (s.returnSlot f).leaveLane l).settle f .noReply 0 true
      | .host h =>
        w.on fun s => (s.leaveLane l).complete h.ref .exchangeFailed (exchangeResult .noReply x.sequence)

/-- The lane enters OFF by disable (R61). DESIGN CHOICE, unsafe: the ENTRY_OUTCOME of an abandoned scheduled exchange is
posted before LANE_STATE DISABLED; R61, R82 and R157 leave their order open (log entry 40). -/
def Work.disable (w : Work) (l : LaneId) : Work :=
  let w1 := (w.abandon l).on fun s =>
    (s.completeAll s.lanes[l].waitingRefs .laneNotReady 0).completeTrain l .cancelled
  w1.laneChange l w1.s.lanes[l].turnOff .disabled

/-- The retrain timer of a FAULTED lane whose settings change (R62). -/
def retrainSetting (x : Lane) (auto : Bool) (delay : Nat) : Option Nat :=
  if auto = false then none
  else if x.autoRetrain = false ∧ x.retrainTimer = none then some (delay * Config.clocksPerMs)
  else x.retrainTimer

/-- The lane with its new settings, before what they do to its state (R60). -/
def Lane.configured (x : Lane) (rate : LaneRate) (auto : Bool) (delay : Nat) (stale : Bool) : Lane :=
  { x with
    rate := rate, autoRetrain := auto, retrainDelay := delay, staleNotify := stale,
    retrainTimer := if x.state = .faulted then retrainSetting x auto delay else x.retrainTimer }

/-- What LANE CONFIGURE does to a lane once its checks have passed (R61, R62). -/
def Work.configure (w : Work) (l : LaneId) (enable : Bool) (rate : LaneRate) (auto : Bool) (delay : Nat)
    (stale : Bool) : Work :=
  let x := w.s.lanes[l]
  let y := x.configured rate auto delay stale
  let w1 := w.on fun s => s.setLane l y
  match x.state, enable with
  | .off, true => w1.laneChange l y.beginRun .enabled
  | .off, false => w1
  | _, false => w1.disable l
  | .training, true => if rate = x.rate then w1 else w1.on fun s => s.setLane l y.beginRun
  | _, true => if rate = x.rate then w1 else w1.laneChange l y.beginRun .rateChange

/-- LANE CONFIGURE on its lane and five settings (R60). -/
def laneConfigureOwner (r : CommandRecord) (ref : CmdRef) (s : State) : State :=
  match laneOfByte (recordByte r 8), flagByte (recordByte r 9), rateOfCode (recordByte r 10),
      flagByte (recordByte r 11), flagByte (recordByte r 13) with
  | some l, some enable, some rate, some auto, some stale =>
    if recordByte r 12 = 0 ∨ reservedZero r [(8, 13)] = false then s.complete ref .badField 0
    else if rate ≠ s.lanes[l].rate ∧ s.laneInUse l = true then s.complete ref .inUse 0
    else
      ((s.work.configure l enable rate auto (recordByte r 12) stale).on fun t =>
        t.complete ref .ok (pack [(t.lanes[l].state.code, 0)])).finish
  | _, _, _, _, _ => s.complete ref .badField 0

/-- LANE_CONFIGURE (R60), admin-only. -/
def execLaneConfigure (s : State) : Host.Outcome State Fault Refusal :=
  .next (s.runCommand 0x20 (adminOnly laneConfigureOwner))

/-! ### TRAIN_LANE (R74) -/

/-- An earlier TRAIN LANE completes SUPERSEDED and this one waits (R74). -/
def State.waitForTraining (s : State) (l : LaneId) (ref : CmdRef) : State :=
  let t := s.completeTrain l .superseded
  t.setLane l { t.lanes[l] with waitingTrain := some ref }

/-- TRAIN LANE on its lane (R74). -/
def trainOwner (r : CommandRecord) (ref : CmdRef) (s : State) : State :=
  match laneOfByte (recordByte r 8) with
  | none => s.complete ref .badField 0
  | some l =>
    if reservedZero r [(8, 8)] = false then s.complete ref .badField 0
    else
      let w := (s.waitForTraining l ref).work
      match s.lanes[l].state with
      | .off => s.complete ref .wrongState 0
      | .training => (w.on fun t => t.setLane l t.lanes[l].beginRun).finish
      | .ready => (w.laneChange l w.s.lanes[l].beginRun .trainCommand).finish
      | .faulted => (w.laneChange l w.s.lanes[l].beginRun .trainCommand).finish

/-- TRAIN_LANE (R74). -/
def execTrainLane (s : State) : Host.Outcome State Fault Refusal := .next (s.runCommand 0x21 trainOwner)

/-! ### LANE_EXCHANGE (R76) -/

/-- The counts follow the kind (R63). -/
def countsFit (kind : Kind) (outCount inCount : Nat) : Bool :=
  countFits kind.sends outCount && countFits kind.receives inCount

/-- LANE EXCHANGE on its lane, kind, counts, window, address and words (R76). -/
def laneExchangeOwner (r : CommandRecord) (ref : CmdRef) (s : State) : State :=
  match laneOfByte (recordByte r 8), kindOfCode (recordByte r 9) with
  | some l, some kind =>
    let outCount := recordByte r 10
    let inCount := recordByte r 11
    let window := recordField16 r 12
    if kind = .marker ∨ countsFit kind outCount inCount = false ∨ window < 4 ∨ 4095 < window ∨
        reservedZero r ([(8, 13), (16, 23)] ++ wordBytes outCount) = false then s.complete ref .badField 0
    else if window < minimumWindow outCount inCount s.lanes[l].rate s.nominalStu then s.complete ref .windowShort 0
    else if s.lanes[l].state ≠ .ready then s.complete ref .laneNotReady 0
    else if 4 ≤ s.lanes[l].queue.length then s.complete ref .queueFull 0
    else
      s.setLane l
        { s.lanes[l] with
          queue := s.lanes[l].queue ++
            [{ exchange := { ref := ref, kind := kind, outWords := recordWords r outCount, inCount := inCount,
                             window := window, address := recordAddress r 16 }, giveUps := 0 }] }
  | _, _ => s.complete ref .badField 0

/-- LANE_EXCHANGE (R76). -/
def execLaneExchange (s : State) : Host.Outcome State Fault Refusal := .next (s.runCommand 0x22 laneExchangeOwner)

/-! ### READ_LANE (R81) -/

/-- READ LANE on its lane and host address (R81). -/
def readLaneOwner (r : CommandRecord) (ref : CmdRef) (s : State) : State :=
  match laneOfByte (recordByte r 8) with
  | none => s.complete ref .badField 0
  | some l =>
    if reservedZero r [(8, 8), (16, 23)] = false then s.complete ref .badField 0
    else s.beginReport ref (recordAddress r 16) (laneReport s.lanes[l])

/-- READ_LANE (R81). -/
def execReadLane (s : State) : Host.Outcome State Fault Refusal := .next (s.runCommand 0x23 readLaneOwner)

/-! ### Events of a lane -/

/-- REPLY_COMPLETE (R67). -/
def execReplyComplete (lane : LaneId) (cells : List LineCell) (s : State) : Host.Outcome State Fault Refusal :=
  .next (s.replyComplete lane cells)

/-- EXCHANGE_DEADLINE (R68). -/
def execExchangeDeadline (lane : LaneId) (s : State) : Host.Outcome State Fault Refusal := .next (s.exchangeDeadline lane)

/-- LINE_IDLE_TIMEOUT (R64). -/
def execLineIdleTimeout (lane : LaneId) (cells : List LineCell) (s : State) : Host.Outcome State Fault Refusal :=
  .next (s.lineIdleTimeout lane cells)

/-- STALE_FRAME (R69). -/
def execStaleFrame (lane : LaneId) (cells : List LineCell) (s : State) : Host.Outcome State Fault Refusal :=
  .next (s.staleFrame lane cells)

/-- PROBE_INTERVAL (R72). -/
def execProbeInterval (lane : LaneId) (s : State) : Host.Outcome State Fault Refusal := .next (s.probeInterval lane)

/-- RETRAIN_TIMER_EXPIRY (R71). -/
def execRetrainTimerExpiry (lane : LaneId) (s : State) : Host.Outcome State Fault Refusal :=
  .next (s.retrainTimerExpiry lane)

/-- HOST_EXCHANGE_START (R78). -/
def execHostExchangeStart (lane : LaneId) (s : State) : Host.Outcome State Fault Refusal := .next (s.hostExchangeStart lane)

/-- LANE_FRAME_BEGINS (R67, R69). -/
def execLaneFrameBegins (lane : LaneId) (s : State) : Host.Outcome State Fault Refusal := .next (s.laneFrameBegins lane)

/-- CUT_OFF_REPLY_ENDS (R68). -/
def execCutOffReplyEnds (lane : LaneId) (s : State) : Host.Outcome State Fault Refusal := .next (s.cutOffReplyEnds lane)

end Sys2Proof.Machine
end

