-- ==== Sys2Proof/Machine/Table.lean ====
section
/-! DEFINITION. The Schedule Table (chapter 1): key order, the edit session, validation, the swap and the carry-over of
runtime records; the commands EDIT_BEGIN, ENTRY_INSERT, ENTRY_REMOVE, ENTRY_MODIFY, READ_ENTRY, EDIT_COMMIT and
EDIT_DISCARD. -/

namespace Sys2Proof.Machine

/-! ### Key order (R3) -/

/-- The lane as the key holds it: a MARKER sorts as if its lane were 8 (R3). -/
def Entry.keyLane (e : Entry) : Nat := if e.kind.isLane then e.lane.val else 8

/-- The key (mark, lane, period, phase) of R3. -/
def Entry.key (e : Entry) : Nat × Nat × Nat × Nat := (e.mark, e.keyLane, e.period, e.phase)

/-- Key order: field by field from the left (R3). -/
def Entry.before (a b : Entry) : Bool :=
  decide (a.mark < b.mark ∨ (a.mark = b.mark ∧
    (a.keyLane < b.keyLane ∨ (a.keyLane = b.keyLane ∧
      (a.period < b.period ∨ (a.period = b.period ∧ a.phase < b.phase))))))

/-- Places an entry at the position its key requires (R8). -/
def insertEntry (e : Entry) : List Entry → List Entry
  | [] => [e]
  | x :: xs => if x.before e then x :: insertEntry e xs else e :: x :: xs

/-- The position of an entry: how many entries precede it (R3). -/
def positionOf (e : Entry) (table : List Entry) : Nat := (table.filter fun x => x.before e).length

/-- The entry of a table with a handle (R3: at most one). -/
def findHandle (handle : Nat) (table : List Entry) : Option Entry := table.find? fun x => decide (x.handle = handle)

/-- The entry of a table with a key (R3: at most one). -/
def findKey (key : Nat × Nat × Nat × Nat) (table : List Entry) : Option Entry := table.find? fun x => decide (x.key = key)

/-- A table without the entry of a handle (R9). -/
def withoutHandle (handle : Nat) (table : List Entry) : List Entry := table.filter fun x => decide (x.handle ≠ handle)

/-- The entries of the active table, in order. -/
def State.activeEntries (s : State) : List Entry := s.active.map ActiveEntry.entry

/-! ### Session checks (R7, R12, R13) -/

/-- The first two session checks of R7: an open session, owned by the issuing pair. -/
def State.ownerCheck (s : State) (pair : PairId) : Option Status :=
  match s.session with
  | none => some .noSession
  | some x => if x.owner ≠ pair then some .notOwner else none

/-- The session checks of R7, in order. -/
def State.sessionCheck (s : State) (pair : PairId) : Option Status :=
  match s.ownerCheck pair with
  | some code => some code
  | none => if ((s.session.map Session.commit).getD none).isSome then some .commitPending else none

/-! ### Validation (R14 to R16, R23) -/

/-- A violation: its code and the two handles of the result, 0xFFFF where none (R13). -/
structure Violation where
  status : Status
  first  : Nat
  second : Nat
  deriving DecidableEq, Repr

/-- A position with no handle (R13). -/
def noHandle : Nat := 0xFFFF

/-- The result of a violation (section 11.2). -/
def Violation.result (v : Violation) : Reg := pack [(v.first, 0), (v.second, 16)]

/-- The per-entry checks of R14, in order. -/
def State.entryFault (s : State) (p : Plan) (e : Entry) : Option Status :=
  if (e.kind.isLane = true ∧ p.bm < e.mark + e.window) ∨ (e.kind.isLane = false ∧ p.bm ≤ e.mark) then some .markRange
  else if p.matrix < e.period then some .periodRange
  else if e.kind.receives = true ∧ s.rings[e.ring].usable = false then some .ringAbsent
  else if e.kind.isLane = true ∧ e.window < minimumWindow e.outCount e.inCount s.lanes[e.lane].rate p.stu then
    some .windowShort
  else none

/-- The cycle sets of two entries intersect (R16). -/
def Entry.meets (a b : Entry) : Bool := decide (a.phase % min a.period b.period = b.phase % min a.period b.period)

/-- The earlier entry `a` and the later entry `b` of one table violate R16. -/
def Entry.collides (a b : Entry) : Bool :=
  a.kind.isLane && b.kind.isLane && decide (a.lane = b.lane) && a.meets b && decide (b.mark < a.mark + a.window + 1)

/-- The first violating pair of R16: each entry `b` in table order against each earlier entry in table order; `seen`
are the entries already walked. -/
def overlapIn (seen : List Entry) : List Entry → Option Violation
  | [] => none
  | b :: rest =>
    match seen.find? fun a => a.collides b with
    | some a => some ⟨.laneOverlap, a.handle, b.handle⟩
    | none => overlapIn (seen ++ [b]) rest

/-- Validation of a table against the plan, the lanes and the rings as they stand: the first violation (R13 to R16). -/
def State.validate (s : State) (table : List Entry) : Option Violation :=
  match s.sc.plan with
  | none => some ⟨.noPlan, noHandle, noHandle⟩
  | some p =>
    match table.findSome? fun e => (s.entryFault p e).map fun code => (code, e.handle) with
    | some (code, handle) => some ⟨code, handle, noHandle⟩
    | none => overlapIn [] table

/-! ### The swap (R19, R20, R21, R54) -/

/-- The identity fields that carry a runtime record over (R20). -/
def Entry.sameIdentity (a b : Entry) : Bool :=
  decide (a.kind = b.kind ∧ a.lane = b.lane ∧ a.mode = b.mode ∧ a.outCount = b.outCount ∧ a.inCount = b.inCount ∧
    a.ring = b.ring)

/-- The old active entry whose record a new entry takes over (R20). -/
def carriedFrom (old : List ActiveEntry) (e : Entry) : Option ActiveEntry :=
  old.find? fun a => decide (a.entry.handle = e.handle) && a.entry.sameIdentity e

/-- The new active entry: its record carried over or fresh (R20). -/
def carryOver (old : List ActiveEntry) (e : Entry) : ActiveEntry :=
  { entry := e, run := ((carriedFrom old e).map ActiveEntry.run).getD Runtime.fresh }

/-- An old active entry passes its record to an entry of the new table (R20). -/
def isCarried (table : List Entry) (a : ActiveEntry) : Bool :=
  table.any fun e => decide (a.entry.handle = e.handle) && a.entry.sameIdentity e

/-- The deferred STAGEs of the old entries whose records are not carried, in the old table's order (R20, R54). -/
def finishedStages (table : List Entry) (old : List ActiveEntry) : List CmdRef :=
  (old.filter fun a => !isCarried table a).filterMap fun a => a.run.stage.map DeferredStage.ref

/-- The exchange in flight of a lane after a swap: a firing whose record is not carried reaches no record any more
(R21). -/
def Exchange.detach (table : List Entry) (old : List ActiveEntry) (x : Exchange) : Exchange :=
  match x.source with
  | .scheduled f =>
    { x with
      source := .scheduled
        { f with attached := f.attached && old.any fun a => decide (a.entry.handle = f.handle) && isCarried table a } }
  | _ => x

/-- The swap makes the edit table the active table (R19). `atOnce` is a swap that no count-0 edge performs, which flags
an open matrix record PARTIAL and changes its E (R130, R133). The level is evaluated by the step that swaps (R129). -/
def State.swap (s : State) (commit : CmdRef) (atOnce : Bool) : State :=
  let t := { s with
    active := s.edit.map (carryOver s.active),
    edit := [],
    session := none,
    lanes := s.lanes.map fun (x : Lane) => { x with inFlight := x.inFlight.map (Exchange.detach s.edit s.active) } }
  let e := t.expectedNow
  let h := { t.hm with
    expected := e,
    openRecord :=
      if atOnce then t.hm.openRecord.map fun (m : MatrixRecord) => { m with expected := e, isPartial := true } else t.hm.openRecord }
  ((({ t with hm := h } : State).completeAll (finishedStages s.edit s.active) .entryRemoved 0)).complete commit .ok
    (pack [(s.edit.length, 0), ((s.edit.filter fun x => (carriedFrom s.active x).isSome).length, 16)])

/-- Performs a pending swap, if a commit is pending (R18, R22). -/
def State.swapPending (s : State) (atOnce : Bool) : State :=
  match s.session with
  | some { owner := _, commit := some ref } => s.swap ref atOnce
  | _ => s

/-! ### EDIT_BEGIN (R6) -/

/-- EDIT BEGIN (R6); its must-be-zero bytes are checked first (R173). -/
def editBeginOwner (r : CommandRecord) (ref : CmdRef) (s : State) : State :=
  if reservedZero r [] = false then s.complete ref .badField 0
  else if s.session.isSome then s.complete ref .sessionOpen 0
  else
    { s with
      edit := s.activeEntries,
      session := some { owner := ref.pair, commit := none } }.complete ref .ok (pack [(s.active.length, 0)])

/-- EDIT_BEGIN (R6). -/
def execEditBegin (s : State) : Host.Outcome State Fault Refusal := .next (s.runCommand 0x01 editBeginOwner)

/-! ### ENTRY_INSERT (R8) -/

/-- ENTRY INSERT on its entry record (R8). -/
def entryInsertOwner (r : CommandRecord) (ref : CmdRef) (s : State) : State :=
  match s.sessionCheck ref.pair with
  | some code => s.complete ref code 0
  | none =>
    match recordEntry r with
    | none => s.complete ref .badField (pack [(recordByte r 8, 0)])
    | some e =>
      if Config.tableCapacity ≤ s.edit.length then s.complete ref .tableFull 0
      else
        match findHandle e.handle s.edit, findKey e.key s.edit with
        | some x, _ => s.complete ref .handleInUse (pack [(x.handle, 0)])
        | none, some x => s.complete ref .duplicateKey (pack [(x.handle, 0)])
        | none, none =>
          { s with edit := insertEntry e s.edit }.complete ref .ok (pack [(positionOf e s.edit, 0)])

/-- ENTRY_INSERT (R8). -/
def execEntryInsert (s : State) : Host.Outcome State Fault Refusal := .next (s.runCommand 0x02 entryInsertOwner)

/-! ### ENTRY_REMOVE (R9) -/

/-- ENTRY REMOVE on its handle (R9); its must-be-zero bytes are checked first (R173). -/
def entryRemoveOwner (r : CommandRecord) (ref : CmdRef) (s : State) : State :=
  if reservedZero r [(8, 8)] = false then s.complete ref .badField 0
  else
    match s.sessionCheck ref.pair with
    | some code => s.complete ref code 0
    | none =>
      match findHandle (recordByte r 8) s.edit with
      | none => s.complete ref .noEntry 0
      | some _ =>
        { s with edit := withoutHandle (recordByte r 8) s.edit }.complete ref .ok
          (pack [((withoutHandle (recordByte r 8) s.edit).length, 0)])

/-- ENTRY_REMOVE (R9). -/
def execEntryRemove (s : State) : Host.Outcome State Fault Refusal := .next (s.runCommand 0x03 entryRemoveOwner)

/-! ### ENTRY_MODIFY (R10) -/

/-- ENTRY MODIFY on its entry record (R10). -/
def entryModifyOwner (r : CommandRecord) (ref : CmdRef) (s : State) : State :=
  match s.sessionCheck ref.pair with
  | some code => s.complete ref code 0
  | none =>
    match findHandle (recordByte r 8) s.edit with
    | none => s.complete ref .noEntry 0
    | some _ =>
      match recordEntry r with
      | none => s.complete ref .badField (pack [(recordByte r 8, 0)])
      | some e =>
        let others := withoutHandle e.handle s.edit
        match findKey e.key others with
        | some x => s.complete ref .duplicateKey (pack [(x.handle, 0)])
        | none => { s with edit := insertEntry e others }.complete ref .ok (pack [(positionOf e others, 0)])

/-- ENTRY_MODIFY (R10). -/
def execEntryModify (s : State) : Host.Outcome State Fault Refusal := .next (s.runCommand 0x04 entryModifyOwner)

/-! ### READ_ENTRY (R11) -/

/-- READ ENTRY on its handle, table selector and host address (R11). -/
def readEntryOwner (r : CommandRecord) (ref : CmdRef) (s : State) : State :=
  let handle := recordByte r 8
  let address := recordAddress r 16
  if 1 < recordByte r 9 ∨ reservedZero r [(8, 9), (16, 23)] = false then s.complete ref .badField 0
  else if recordByte r 9 = 0 then
    match s.findActive handle with
    | none => s.complete ref .noEntry 0
    | some a => s.beginReport ref address (entryReport a.entry (positionOf a.entry s.activeEntries) (some a.run))
  else if s.session.isNone then s.complete ref .noSession 0
  else
    match findHandle handle s.edit with
    | none => s.complete ref .noEntry 0
    | some e => s.beginReport ref address (entryReport e (positionOf e s.edit) none)

/-- READ_ENTRY (R11). -/
def execReadEntry (s : State) : Host.Outcome State Fault Refusal := .next (s.runCommand 0x05 readEntryOwner)

/-! ### EDIT_COMMIT (R13, R17) -/

/-- EDIT COMMIT (R13); its must-be-zero bytes are checked first (R173). A valid table is swapped in at once, or the
commit becomes pending while the device is RUNNING and LOCKED (R17). -/
def editCommitOwner (r : CommandRecord) (ref : CmdRef) (s : State) : State :=
  if reservedZero r [] = false then s.complete ref .badField 0
  else
    match s.sessionCheck ref.pair with
    | some code => s.complete ref code 0
    | none =>
      match s.validate s.edit with
      | some v => s.complete ref v.status v.result
      | none =>
        if s.dispatching then { s with session := some { owner := ref.pair, commit := some ref } }
        else ((s.swap ref true).work.evaluate).finish

/-- EDIT_COMMIT (R13). -/
def execEditCommit (s : State) : Host.Outcome State Fault Refusal := .next (s.runCommand 0x06 editCommitOwner)

/-! ### EDIT_DISCARD (R12) -/

/-- A pending EDIT COMMIT completes CANCELLED (R12). -/
def State.cancelCommit (s : State) (commit : Option CmdRef) : State :=
  match commit with
  | some ref => s.complete ref .cancelled 0
  | none => s

/-- EDIT DISCARD (R12); its must-be-zero bytes are checked first (R173). -/
def editDiscardOwner (r : CommandRecord) (ref : CmdRef) (s : State) : State :=
  if reservedZero r [] = false then s.complete ref .badField 0
  else
    match s.ownerCheck ref.pair with
    | some code => s.complete ref code 0
    | none =>
      ({ s with edit := [], session := none }.cancelCommit ((s.session.map Session.commit).getD none)).complete ref .ok
        (pack [(s.edit.length, 0)])

/-- EDIT_DISCARD (R12). -/
def execEditDiscard (s : State) : Host.Outcome State Fault Refusal := .next (s.runCommand 0x07 editDiscardOwner)

end Sys2Proof.Machine
end

