-- ==== Sys2Proof/Machine/Sync.lean ====
section
/-! DEFINITION. The Time Base and Sync Controller (chapter 6) and what a taken edge, watch expiry and a halt do to the
other blocks (R18, R25, R26, R77, R116, R117, R131, R133, R171); the commands SET_CYCLE_PLAN, READ_TIME, RESIGN and the
events of the sync pair. -/

namespace Sys2Proof.Machine

/-! ### The time base (R98, R99) -/

/-- WM = BM + watch margin (R96). -/
def Plan.wm (p : Plan) : Nat := p.bm + p.watchMargin

/-- The cycle time at which a backup or a free-running candidate begins its beacon (R106, R107). -/
def Plan.offset (p : Plan) : Nat := p.bm + (p.rank + 1) * p.stagger

/-- The effective STU length in millionths of a reference clock: the nominal length times (1 + trim / 1,000,000) (R98). -/
def effectiveMicro (stu : Nat) (trim : Int) : Nat := ((stu : Int) * (1000000 + trim)).toNat

/-- The present instant of the time base. -/
def TimeSync.now (t : TimeSync) : Instant :=
  { time := t.localTime, clocks := t.stuLength - t.stuLeft, length := t.stuLength }

/-- The next STU begins: it gets a whole number of clocks, and the fraction is carried, so that any run of STU counted
under one trim differs from the exact sum by less than one clock (R98). -/
def TimeSync.nextStu (t : TimeSync) (stu : Nat) : TimeSync :=
  let total := t.stuCarry + effectiveMicro stu t.trim
  { t with stuLength := total / 1000000, stuLeft := total / 1000000, stuCarry := total % 1000000 }

/-- A new trim (R98: the STU in progress keeps its length). Where the new effective length is not a whole number of
clocks, which STU gets the odd clock is free. -/
def State.setTrim (s : State) (trim : Int) : State :=
  if trim = s.sc.trim then s
  else
    { s with
      sc := { s.sc with
        trim := trim,
        stuCarry :=
          if effectiveMicro s.nominalStu trim % 1000000 = 0 then 0 else Config.stuPhase s.free % 1000000 },
      free := s.free + 1 }

/-- A deadline held as a local time is converted into reference clocks when the time base stops: the clocks left of the
STU in progress and the rest of the span at the effective STU length (R66). -/
def TimeSync.convertDeadline (t : TimeSync) (stu n : Nat) (d : Deadline) : Deadline :=
  match d with
  | .inClocks c => .inClocks c
  | .atLocal time =>
    if time = t.localTime then .inClocks 0
    else
      .inClocks (roundFree
        (t.stuLeft * 1000000 + ((time - t.localTime).toNat - 1) * effectiveMicro stu t.trim) 1000000 n)

/-- The time base stops: local time, cycle time and the cycle count read 0, and deadlines of exchanges in flight are
converted (R66, R99). -/
def State.stopTime (s : State) : State :=
  { s with
    lanes := s.lanes.mapIdx fun i (x : Lane) =>
      { x with inFlight := x.inFlight.map fun (e : Exchange) =>
          { e with deadline := s.sc.convertDeadline s.nominalStu (s.free + i) e.deadline } },
    sc := { s.sc with
      localTime := 0, cycleTime := 0, cycleCount := 0, stuLength := 0, stuLeft := 0, stuCarry := 0, opening := none },
    free := s.free + 8 }

/-! ### Events of the controller (section 11.3) -/

/-- The causes of SYNC_STATE (R112), by their codes. -/
inductive SyncCause where
  | start | firstBeacon | locked | countBreak | watch | stopped | halted
  deriving DecidableEq, Repr

/-- The cause codes of SYNC_STATE (section 11.3). -/
def SyncCause.code : SyncCause → Nat
  | .start => 1
  | .firstBeacon => 2
  | .locked => 3
  | .countBreak => 4
  | .watch => 5
  | .stopped => 6
  | .halted => 7

/-- The causes of ROLE_CHANGE (R104), by their codes. -/
inductive RoleCause where
  | elected | displaced | resigned | watch | stopped
  deriving DecidableEq, Repr

/-- The cause codes of ROLE_CHANGE (section 11.3). -/
def RoleCause.code : RoleCause → Nat
  | .elected => 1
  | .displaced => 2
  | .resigned => 3
  | .watch => 4
  | .stopped => 5

/-- The sync state changes and SYNC_STATE is posted; a state that stays as it was posts nothing (R112). -/
def Work.setSync (w : Work) (new : SyncState) (cause : SyncCause) : Work :=
  if new = w.s.sc.sync then w
  else
    (w.on fun s => { s with sc := { s.sc with sync := new } }).post
      (w.s.event .syncState noSubject (pack [(new.code, 0), (w.s.sc.sync.code, 8), (cause.code, 16)]))

/-- The trim state changes and TRIM_STATE is posted with the trim as it now stands (R119 to R121). -/
def Work.setTrimState (w : Work) (new : TrimState) : Work :=
  (w.on fun s => { s with sc := { s.sc with trimState := new } }).post
    (w.s.event .trimState noSubject
      (pack [(new.code, 0), (w.s.sc.trimState.code, 2), ((BitVec.ofInt 16 w.s.sc.trim).toNat, 16)]))

/-- The dynamic role changes and ROLE_CHANGE is posted (R104). -/
def Work.setRole (w : Work) (new : Role) (cause : RoleCause) : Work :=
  (w.on fun s => { s with sc := { s.sc with role := new } }).post
    (w.s.event .roleChange noSubject (pack [(new.code, 0), (w.s.sc.role.code, 8), (cause.code, 16)]))

/-- The unit becomes LEADER and freezes its trim; the state it had is kept (R106, R107, R121). -/
def Work.elect (w : Work) : Work :=
  ((w.setRole .leader .elected).on fun s => { s with sc := { s.sc with keptTrim := s.sc.trimState } }).setTrimState .frozen

/-- A LEADER becomes BACKUP, and a FROZEN trim state returns to the state it kept, with the good-run count at 0 if that
is SUSPENDED (R104, R121). Another role stays. -/
def Work.demote (w : Work) (cause : RoleCause) : Work :=
  if w.s.sc.role ≠ .leader then w
  else
    let w1 := w.setRole .backup cause
    if w1.s.sc.trimState ≠ .frozen then w1
    else
      (w1.on fun s =>
        { s with sc := { s.sc with goodRun := if s.sc.keptTrim = .suspended then 0 else s.sc.goodRun } }).setTrimState
        w1.s.sc.keptTrim

/-- The resign hold is cleared, and a waiting RESIGN completes (R111). -/
def State.endResign (s : State) (status : Status) (result : Reg) : State :=
  let t := { s with sc := { s.sc with hold := false, resign := none } }
  match s.sc.resign with
  | some ref => t.complete ref status result
  | none => t

/-! ### Trim (R118 to R121) -/

/-- A taken edge: its captured instant, and the fields of its beacon. -/
structure Edge where
  instant : Instant
  count   : Nat
  restart : Bool
  rank    : Nat
  unit    : Nat
  deriving DecidableEq, Repr

/-- The length of the cycle between two captured instants, in sixteenths of a local STU (R118); what lies between two
sixteenths is measured as one or the other. -/
def cycleSixteenths (a b : Instant) (n : Nat) : Nat :=
  roundFree (16 * ((b.time - a.time).toNat * a.length * b.length + b.clocks * a.length) - 16 * (a.clocks * b.length))
    (a.length * b.length) n

/-- A quotient rounded to the nearest whole number, halves away from zero (R118). -/
def roundHalfAway (a : Int) (b : Nat) : Int :=
  if a < 0 then -(((2 * (-a).toNat + b) / (2 * b) : Nat) : Int) else (((2 * a.toNat + b) / (2 * b) : Nat) : Int)

/-- The deviation in ppm of a cycle of `sixteenths` against BM (R118). -/
def deviation (sixteenths bm : Nat) : Int :=
  roundHalfAway (((sixteenths : Int) - 16 * (bm : Int)) * 1000000) (16 * bm)

/-- The measurement of the cycle that an edge closes, where R118 admits one: `lockedAfter` is whether the state is
LOCKED after the edge. -/
def State.measure (s : State) (p : Plan) (e : Edge) (lockedAfter : Bool) : Option Int :=
  match s.sc.opening with
  | some o =>
    if s.sc.role ≠ .leader ∧ s.sc.trimState ≠ .frozen ∧ lockedAfter = true ∧ o.locked = true ∧ o.restart = false ∧
        e.restart = false then
      some (deviation (cycleSixteenths o.instant e.instant s.free) p.bm)
    else none
  | none => none

/-- A measurement is folded into the trim (R119), or counted toward the end of a suspension (R120). -/
def Work.foldTrim (w : Work) (p : Plan) (d : Int) : Work :=
  match w.s.sc.trimState with
  | .frozen => w
  | .tracking =>
    let new := w.s.sc.trim + d.tdiv 4
    if (p.trimLimit : Int) < (new.natAbs : Int) then
      ((w.on fun s =>
        { (s.setTrim 0) with sc := { (s.setTrim 0).sc with goodRun := 0 } })).setTrimState .suspended
    else w.on fun s => s.setTrim new
  | .suspended =>
    if (p.trimLimit : Int) < (d.natAbs : Int) then w.on fun s => { s with sc := { s.sc with goodRun := 0 } }
    else if w.s.sc.goodRun + 1 < 3 then
      w.on fun s => { s with sc := { s.sc with goodRun := s.sc.goodRun + 1 } }
    else
      (w.on fun s =>
        { (s.setTrim d) with sc := { (s.setTrim d).sc with goodRun := 0 } }).setTrimState .tracking

/-! ### The Dispatcher and the lanes at an edge (R24 to R26, R77) -/

/-- The position of the first entry from `start` on that fires in cycle `count`; the number of entries if none does
(R24, R28). -/
def nextFiring (table : List ActiveEntry) (count start : Nat) : Nat :=
  start + (table.drop start).findIdx fun a => a.entry.fires count

/-- Waiting host exchanges whose give-up count reaches 4 with this cycle (R77). -/
def Lane.givingUp (x : Lane) : List CmdRef :=
  (x.queue.filter fun q => decide (4 ≤ q.giveUps + 1)).map fun q => q.exchange.ref

/-- The give-up counts of a lane's waiting host exchanges increase by one (R77). -/
def Lane.countGiveUps (x : Lane) : Lane :=
  { x with
    queue := (x.queue.map fun (q : WaitingExchange) => { q with giveUps := q.giveUps + 1 }).filter fun q =>
      decide (q.giveUps < 4) }

/-- The Dispatcher takes up a cycle (R25): it takes the beacon's count, carries the open matrix record as its tag, which
notes the count (R131), and considers the table from position 0; waiting host exchanges count it (R77). -/
def State.takeUp (s : State) (count : Nat) : State :=
  let refs := s.lanes.toList.flatMap Lane.givingUp
  { s with
    cycle := some { count := count, tag := s.hm.openRecord.map MatrixRecord.id,
                    position := nextFiring s.active count 0 },
    hm := { s.hm with openRecord := s.hm.openRecord.map fun (m : MatrixRecord) => { m with lastCycle := count } },
    lanes := s.lanes.map Lane.countGiveUps }.completeAll refs .laneNoGap 0

/-! ### Taking an edge (R109, R111, R112, R116, R118, R131, R133) -/

/-- The sync state after a valid edge (R112): `follows` is whether its count is (previous count + 1) mod M. -/
def SyncState.afterEdge (y : SyncState) (follows : Bool) : SyncState :=
  match y with
  | .off => .off
  | .unsynced => .acquiring
  | .acquiring => if follows then .locked else .acquiring
  | .locked => if follows then .locked else .acquiring

/-- The cause of the change of sync state at an edge (R112). -/
def SyncState.edgeCause (y : SyncState) : SyncCause :=
  match y with
  | .unsynced => .firstBeacon
  | .acquiring => .locked
  | _ => .countBreak

/-- The role and the resign hold at a taken edge: the unit's own RESTART beacon elects it (R106, R107); another unit's
beacon makes a LEADER a BACKUP and clears the hold (R109, R111). -/
def Work.edgeRole (w : Work) (own : Bool) (e : Edge) : Work :=
  if own then (if e.restart = true ∧ w.s.sc.role ≠ .leader then w.elect else w)
  else
    (w.demote (if w.s.sc.hold then .resigned else .displaced)).on fun s =>
      if s.sc.hold then s.endResign .ok (pack [(e.rank, 0), (e.unit, 8)]) else s

/-- The Health Monitor at a taken edge (R131, R133): a count break or a count that does not follow flags the open record
PARTIAL; a count-0 edge closes it and begins a new one. -/
def Work.edgeRecords (w : Work) (e : Edge) (follows : Bool) : Work :=
  let w1 := if follows then w else w.on fun s => { s with hm := s.hm.flagPartial }
  if e.count ≠ 0 then w1
  else
    (w1.on fun s =>
      { s with hm :=
          if s.reportsOn then s.hm.closeRecord.beginRecord (decide (s.sc.sync ≠ .locked)) else s.hm.closeRecord }).postReady

/-- The time base at a taken edge (R99, R112): cycle time becomes the number of STU that have ended since the captured
instant, the cycle count is the beacon's, and the episode of R113 ends. -/
def State.edgeTime (s : State) (e : Edge) (lockedAfter : Bool) : State :=
  { s with sc := { s.sc with
      cycleTime := min 65535 (s.sc.localTime - e.instant.time).toNat,
      cycleCount := e.count,
      lastLeader := some (e.rank, e.unit),
      receiving := none,
      activity := false,
      firstFreeRun := false,
      rejectedInRun := 0,
      opening := some { instant := e.instant, locked := lockedAfter, restart := e.restart } } }

/-- A valid edge is taken and handed on (R112, R116): the controller's own part, then the Schedule Table's pending swap
(R18), the Health Monitor's records and level, the Dispatcher and the lanes (log entry 13 says why in this order). DESIGN
CHOICE, unsafe: the TRIM_STATE of a role that changes is posted after ROLE_CHANGE and before SYNC_STATE, that of a
measurement after SYNC_STATE; R104 to R121 do not order TRIM_STATE and SYNC_STATE (log entry 44). -/
def Work.takeEdge (w : Work) (p : Plan) (own : Bool) (e : Edge) : Work :=
  let follows := decide (e.count = (w.s.sc.cycleCount + 1) % p.matrix)
  let before := w.s.sc.sync
  let after := before.afterEdge follows
  let d := w.s.measure p e (decide (after = .locked))
  let w1 := ((w.on fun s => s.edgeTime e (decide (after = .locked))).edgeRole own e).setSync after before.edgeCause
  let w2 := match d with
    | some d => (w1.on fun s => { s with free := s.free + 1 }).foldTrim p d
    | none => w1
  let w3 := if after = .locked ∧ e.count = 0 then w2.on fun s => s.swapPending false else w2
  let w4 := (w3.edgeRecords e follows).evaluate
  w4.on fun s => if after = .locked then s.takeUp e.count else { s with cycle := none }

/-! ### Watch expiry (R114) -/

/-- Watch expiry is taken (R111, R114): UNSYNCED with a new episode, a LEADER becomes BACKUP, the hold is cleared, the
Dispatcher goes IDLE, and the present matrix record is PARTIAL. The level is evaluated once, after the sync state and the
trim state have both changed (log entry 17). TRIM_STATE is posted last, after SYNC_STATE and ROLE_CHANGE (log entry 44). -/
def Work.expire (w : Work) : Work :=
  ((((w.setSync .unsynced .watch).demote .watch).on fun s =>
    { (if s.sc.hold then s.endResign .noTakeover 0 else s) with cycle := none }).on fun s =>
    { s with
      sc := { s.sc with
        cycleTime := 0, activity := false, firstFreeRun := true, rejectedInRun := 0, opening := none },
      hm := s.hm.flagPartial }).evaluate

/-! ### Leaving the sync states (R117, R170, R171) -/

/-- The controller at STOP and at entry into HALTED (R117): OFF, the receiver ignores the pair, a beacon in progress is
no edge any more, a LEADER becomes BACKUP with a FROZEN trim restored, and a waiting RESIGN completes CANCELLED. -/
def Work.leaveSync (w : Work) (cause : SyncCause) : Work :=
  (((w.setSync .off cause).on fun s =>
    { s with sc := { s.sc with
        receiving := none,
        sending := s.sc.sending.map fun (b : OwnBeacon) => { b with counts := false } } }).demote .stopped).on fun s =>
    if s.sc.hold then s.endResign .cancelled 0 else s

/-- The Health Monitor at STOP and at entry into HALTED: the open record is closed, PARTIAL if the sync state left
LOCKED, and the level is evaluated (R131, R133, R134). -/
def Work.closeMatrix (w : Work) (wasLocked : Bool) : Work :=
  (w.on fun s =>
    { s with hm := (if wasLocked then s.hm.flagPartial else s.hm).closeRecord }).postReady.evaluate

/-- The device enters HALTED on a clash whose event is already posted (R171). -/
def Work.halt (w : Work) (cause : HaltCause) : Work :=
  let wasLocked := decide (w.s.sc.sync = .locked)
  let w1 := (w.post (w.s.event .halt noSubject (pack [(cause.code, 0)]))).on fun s =>
    { s with dev := .halted, haltCause := cause, cycle := none }.swapPending true
  ((w1.leaveSync .halted).flush).closeMatrix wasLocked

/-! ### The sync pair (R100 to R108) -/

/-- The pair is idle: no frame is being received and the unit is sending none (R100). -/
def TimeSync.pairIdle (t : TimeSync) : Bool := t.receiving.isNone && t.sending.isNone

/-- The receiver watches the pair in UNSYNCED, ACQUIRING and LOCKED (R101). -/
def SyncState.watches (y : SyncState) : Bool := decide (y ≠ .off)

/-- The sync state is ACQUIRING or LOCKED. -/
def SyncState.hasCycle (y : SyncState) : Bool := decide (y = .acquiring ∨ y = .locked)

/-- BEACON_CAPTURE (R101, R108): the instant is captured as a possible edge; from BM on it is activity on the pair. -/
def State.beaconCapture (s : State) : State :=
  match s.sc.plan with
  | none => s
  | some p =>
    if s.serving && s.sc.sync.watches && s.sc.pairIdle then
      { s with sc := { s.sc with
          receiving := some s.sc.now,
          activity := s.sc.activity || decide (p.bm ≤ s.sc.cycleTime) } }
    else s

/-- The BEACON_REJECTED detail (R101, section 11.3): what was received of the fields, high bits first. -/
def rejectedDetail (reason : Nat) (bits : List Bool) : Reg :=
  pack [(reason, 0), (beaconRank bits, 8), (beaconUnit bits, 11), (beaconCount bits, 16),
    (bit (decide (22 ≤ bits.length)), 31)]

/-- A frame is rejected (R101, R113, R115): its edge is not taken; a watch expiry that waited for it is taken now. -/
def Work.rejectBeacon (w : Work) (p : Plan) (reason : Nat) (bits : List Bool) : Work :=
  let w1 := (w.on fun s =>
    { s with sc := { s.sc with
        receiving := none,
        rejectedInRun :=
          if s.sc.sync = .unsynced ∧ s.sc.firstFreeRun = true then s.sc.rejectedInRun + 1
          else s.sc.rejectedInRun } }).post
    (w.s.event .beaconRejected noSubject (rejectedDetail reason bits))
  if w.s.sc.sync.hasCycle = true ∧ p.wm ≤ w.s.sc.cycleTime then w1.expire else w1

/-- BEACON_RECEIVED (R101). -/
def State.beaconReceived (s : State) (bits : List Bool) : State :=
  match s.sc.plan, s.sc.receiving with
  | some p, some instant =>
    if s.serving && s.sc.sync.watches then
      match beaconFault p.matrix p.bm bits with
      | some reason => (s.work.rejectBeacon p reason bits).finish
      | none =>
        (s.work.takeEdge p false
          { instant := instant, count := beaconCount bits, restart := beaconRestart bits, rank := beaconRank bits,
            unit := beaconUnit bits }).finish
    else s
  | _, _ => s

/-- Begins a beacon of the unit's own (R100): the pair is busy from its first bit, which is activity. -/
def State.beginBeacon (s : State) (p : Plan) (count : Nat) (restart : Bool) : State :=
  { s with
    sc := { s.sc with
      sending := some { instant := s.sc.now, count := count, restart := restart, clocks := 0, counts := true },
      activity := true },
    outputs := .beacon (beaconBits p.rank p.unit count p.matrix restart p.bm) :: s.outputs }

/-- What every attempt needs: RUNNING, a candidate, an idle pair with no activity since BM, and no resign hold (R100,
R105 to R108, R110). -/
def State.mayBeacon (s : State) (p : Plan) : Bool :=
  decide (s.dev = .running) && p.candidate && s.sc.pairIdle && !s.sc.activity && !s.sc.hold

/-- A LEADER's beacon is due (R105). -/
def State.leaderDue (s : State) (p : Plan) : Bool :=
  s.mayBeacon p && decide (s.sc.role = .leader) && s.sc.sync.hasCycle && decide (s.sc.cycleTime = p.bm)

/-- A BACKUP's beacon is due (R106). -/
def State.backupDue (s : State) (p : Plan) : Bool :=
  s.mayBeacon p && decide (s.sc.role = .backup) && s.sc.sync.hasCycle && decide (s.sc.cycleTime = p.offset)

/-- A free-running candidate's beacon is due (R107). -/
def State.freeRunDue (s : State) (p : Plan) : Bool :=
  s.mayBeacon p && decide (s.sc.sync = .unsynced) && decide (s.sc.cycleTime = p.offset)

/-- The count of the cycle a beacon opens: the count that follows (R105, R106). -/
def State.nextCount (s : State) (p : Plan) : Nat := (s.sc.cycleCount + 1) % p.matrix

/-- LEADER_BEACON_START (R105). -/
def State.leaderBeaconStart (s : State) : State :=
  match s.sc.plan with
  | some p => if s.leaderDue p then s.beginBeacon p (s.nextCount p) false else s
  | none => s

/-- BACKUP_BEACON_START (R106). -/
def State.backupBeaconStart (s : State) : State :=
  match s.sc.plan with
  | some p => if s.backupDue p then s.beginBeacon p (s.nextCount p) true else s
  | none => s

/-- FREE_RUN_BEACON_START (R107). -/
def State.freeRunBeaconStart (s : State) : State :=
  match s.sc.plan with
  | some p => if s.freeRunDue p then s.beginBeacon p 0 true else s
  | none => s

/-- The unit's own beacon has been sent whole: 61 bits of 100 ns (R100, R176). -/
def State.ownBeaconDue (s : State) : Bool :=
  s.serving &&
    match s.sc.sending with
    | some b => decide (Config.beaconClocks ≤ b.clocks)
    | none => false

/-- OWN_BEACON_END (R101): valid for the sender without checks; after STOP it only ends (R170). DESIGN CHOICE, unsafe:
one begun before STOP only ends after a new START too, with no edge (log entry 43). -/
def State.ownBeaconEnd (s : State) : State :=
  match s.ownBeaconDue, s.sc.sending, s.sc.plan with
  | true, some b, some p =>
    let t := { s with sc := { s.sc with sending := none } }
    if b.counts && s.sc.sync.watches then
      (t.work.takeEdge p true
        { instant := b.instant, count := b.count, restart := b.restart, rank := p.rank, unit := p.unit }).finish
    else t
  | _, _, _ => s

/-- The detail of RANK_CLASH and BEACON_CLASH (R103, section 11.3). -/
def clashDetail (p : Plan) (position : Nat) : Reg :=
  pack [(p.rank, 0), (p.unit, 3), (beaconFieldCode position, 8), (position, 16)]

/-- A clash: its event is posted and the device enters HALTED (R102, R103, R171). -/
def State.clash (s : State) (p : Plan) (kind : EventKind) (cause : HaltCause) (position : Nat) : State :=
  ((s.work.post (s.event kind noSubject (clashDetail p position))).halt cause).finish

/-- ARBITRATION_LOSS (R102): the unit stops driving. In the start pattern and the rank field the frame goes on as one of
another unit; in the unit number field the ranks were equal: RANK_CLASH. After STOP nothing follows (R170). DESIGN CHOICE,
unsafe: for a beacon begun before STOP nothing follows after a new START either: no clash, and nothing is received of the
other unit's frame (log entry 43). -/
def State.arbitrationLoss (s : State) (position : Nat) : State :=
  match s.sc.sending, s.sc.plan with
  | some b, some p =>
    if s.serving && decide (position ≤ 15) then
      let t := { s with sc := { s.sc with sending := none } }
      if (b.counts && s.sc.sync.watches) = false then t
      else if 11 ≤ position then t.clash p .rankClash .rankClash position
      else { t with sc := { t.sc with receiving := some b.instant } }
    else s
  | _, _ => s

/-- BEACON_CLASH (R103). After STOP the transmitter only stops (R170). DESIGN CHOICE, unsafe: for a beacon begun before
STOP it only stops after a new START too (log entry 43). -/
def State.beaconClash (s : State) (position : Nat) : State :=
  match s.sc.sending, s.sc.plan with
  | some b, some p =>
    if s.serving && decide (16 ≤ position ∧ position ≤ 60) then
      let t := { s with sc := { s.sc with sending := none } }
      if (b.counts && s.sc.sync.watches) = false then t
      else t.clash p .beaconClash .beaconClash position
    else s
  | _, _ => s

/-! ### Cycle ends without an edge (R99, R113, R114) -/

/-- Watch expiry is due: cycle time has reached WM and no edge captured since the last taken one is still being
received or sent (R114, R115). -/
def State.watchDue (s : State) (p : Plan) : Bool :=
  decide (s.dev = .running) && s.sc.sync.hasCycle && decide (p.wm ≤ s.sc.cycleTime) && s.sc.pairIdle

/-- WATCH_EXPIRY (R114). -/
def State.watchExpiry (s : State) : State :=
  match s.sc.plan with
  | some p => if s.watchDue p then s.work.expire.finish else s
  | none => s

/-- A free-run cycle has reached WM (R113). -/
def State.freeRunEnds (s : State) (p : Plan) : Bool :=
  decide (s.dev = .running) && decide (s.sc.sync = .unsynced) && decide (p.wm ≤ s.sc.cycleTime)

/-- The count NO_BEACON shows (R113, section 11.3). -/
def noBeaconCount (n : Nat) : Nat := if n < 65536 then n else (Config.rejectedBeyond n).toNat

/-- FREE_RUN_CYCLE (R113): a new free-run cycle begins; the first of an episode ends with NO_BEACON. -/
def State.freeRunCycle (s : State) : State :=
  match s.sc.plan with
  | some p =>
    if s.freeRunEnds p then
      let t := { s with sc := { s.sc with
        cycleTime := 0, activity := false, firstFreeRun := false, rejectedInRun := 0 } }
      if s.sc.firstFreeRun then
        t.postAll [s.event .noBeacon noSubject (pack [(noBeaconCount s.sc.rejectedInRun, 0)])]
      else t
    else s
  | none => s

/-- In HALTED cycle time has reached WM (R99). -/
def State.haltedEnds (s : State) (p : Plan) : Bool := decide (s.dev = .halted) && decide (p.wm ≤ s.sc.cycleTime)

/-- HALTED_CYCLE_RESTART (R99). -/
def State.haltedCycleRestart (s : State) : State :=
  match s.sc.plan with
  | some p => if s.haltedEnds p then { s with sc := { s.sc with cycleTime := 0 } } else s
  | none => s

/-! ### SET_CYCLE_PLAN (R96, R97) -/

/-- The role code of SET CYCLE PLAN: 1 CANDIDATE, 2 FOLLOWER (section 11.1). -/
def candidateOfCode : Nat → Option Bool
  | 1 => some true
  | 2 => some false
  | _ => none

/-- Every parameter lies in its range (R96). -/
def Plan.fits (p : Plan) : Bool :=
  decide (50 ≤ p.stu ∧ p.stu ≤ 10000) && decide (64 ≤ p.bm ∧ p.bm ≤ 60000) && powerOfTwoIn 1 64 p.matrix &&
    decide (2 ≤ p.stagger ∧ p.stagger ≤ 255) &&
    decide (9 * p.stagger + 16 ≤ p.watchMargin ∧ p.bm + p.watchMargin ≤ 65535) &&
    decide (p.rank ≤ 7) && (p.candidate || decide (p.rank = 0)) && decide (p.unit ≤ 31) &&
    decide (50 ≤ p.trimLimit ∧ p.trimLimit ≤ 2000)

/-- The plan in a SET CYCLE PLAN record, or none where R97 refuses it with BAD_FIELD. -/
def recordPlan (r : CommandRecord) : Option Plan :=
  match candidateOfCode (recordByte r 16), flagByte (recordByte r 19) with
  | some candidate, some reports =>
    let p : Plan :=
      { stu := recordField16 r 8, bm := recordField16 r 10, matrix := recordByte r 12, stagger := recordByte r 13,
        watchMargin := recordField16 r 14, candidate := candidate, rank := recordByte r 17, unit := recordByte r 18,
        trimLimit := recordField16 r 20, reports := reports }
    if p.fits && reservedZero r [(8, 21)] then some p else none
  | _, _ => none

/-- The role a unit starts with under a plan (R97, R104). -/
def Plan.startRole (p : Plan) : Role := if p.candidate then .backup else .follower

/-- SET CYCLE PLAN (R97): the WRONG_STATE check comes before the fields. DESIGN CHOICE, unsafe: an own beacon begun before
STOP goes on to its end, also under a plan that makes the unit a FOLLOWER; R100 has a begun beacon sent to its end and a
FOLLOWER's transmitter recessive in every state (log entry 46). -/
def setPlanOwner (r : CommandRecord) (ref : CmdRef) (s : State) : State :=
  if s.dev ≠ .config then s.complete ref .wrongState 0
  else
    match recordPlan r with
    | none => s.complete ref .badField 0
    | some p => { s with sc := { s.sc with plan := some p, role := p.startRole } }.complete ref .ok 0

/-- SET_CYCLE_PLAN (R97), admin-only. -/
def execSetCyclePlan (s : State) : Host.Outcome State Fault Refusal := .next (s.runCommand 0x40 (adminOnly setPlanOwner))

/-! ### READ_TIME (R122) and RESIGN (R110) -/

/-- READ TIME on its host address (R122). -/
def readTimeOwner (r : CommandRecord) (ref : CmdRef) (s : State) : State :=
  if reservedZero r [(16, 23)] = false then s.complete ref .badField 0
  else s.beginReport ref (recordAddress r 16) (timeReport s.sc)

/-- READ_TIME (R122). -/
def execReadTime (s : State) : Host.Outcome State Fault Refusal := .next (s.runCommand 0x41 readTimeOwner)

/-- RESIGN (R110). -/
def resignOwner (r : CommandRecord) (ref : CmdRef) (s : State) : State :=
  if reservedZero r [] = false then s.complete ref .badField 0
  else if s.sc.role ≠ .leader then s.complete ref .notLeader 0
  else if s.sc.hold then s.complete ref .wrongState 0
  else { s with sc := { s.sc with hold := true, resign := some ref } }

/-- RESIGN (R110). -/
def execResign (s : State) : Host.Outcome State Fault Refusal := .next (s.runCommand 0x42 resignOwner)

/-! ### The events of the sync pair and of the cycle -/

/-- BEACON_CAPTURE (R101). -/
def execBeaconCapture (s : State) : Host.Outcome State Fault Refusal := .next s.beaconCapture

/-- BEACON_RECEIVED (R101). -/
def execBeaconReceived (bits : List Bool) (s : State) : Host.Outcome State Fault Refusal := .next (s.beaconReceived bits)

/-- LEADER_BEACON_START (R105). -/
def execLeaderBeaconStart (s : State) : Host.Outcome State Fault Refusal := .next s.leaderBeaconStart

/-- BACKUP_BEACON_START (R106). -/
def execBackupBeaconStart (s : State) : Host.Outcome State Fault Refusal := .next s.backupBeaconStart

/-- FREE_RUN_BEACON_START (R107). -/
def execFreeRunBeaconStart (s : State) : Host.Outcome State Fault Refusal := .next s.freeRunBeaconStart

/-- OWN_BEACON_END (R101). -/
def execOwnBeaconEnd (s : State) : Host.Outcome State Fault Refusal := .next s.ownBeaconEnd

/-- ARBITRATION_LOSS (R102). -/
def execArbitrationLoss (position : Nat) (s : State) : Host.Outcome State Fault Refusal := .next (s.arbitrationLoss position)

/-- BEACON_CLASH (R103). -/
def execBeaconClash (position : Nat) (s : State) : Host.Outcome State Fault Refusal := .next (s.beaconClash position)

/-- WATCH_EXPIRY (R114). -/
def execWatchExpiry (s : State) : Host.Outcome State Fault Refusal := .next s.watchExpiry

/-- FREE_RUN_CYCLE (R113). -/
def execFreeRunCycle (s : State) : Host.Outcome State Fault Refusal := .next s.freeRunCycle

/-- HALTED_CYCLE_RESTART (R99). -/
def execHaltedCycleRestart (s : State) : Host.Outcome State Fault Refusal := .next s.haltedCycleRestart

end Sys2Proof.Machine
end

