-- ==== Sys2Proof/Machine/Cycle.lean ====
section
/-! DEFINITION. The Cycle Dispatcher at a mark (chapter 2): MARK_REACHED. What an edge, STOP and a halt do to the
Dispatcher stands with those steps. -/

namespace Sys2Proof.Machine

/-- The cycle in hand, with its position at the next entry that fires, and that entry, if cycles are dispatched and cycle
time has reached its mark (R25, R28). -/
def State.markDue (s : State) : Option (CycleInHand × ActiveEntry) :=
  match s.dispatching, s.cycle with
  | true, some c =>
    let position := nextFiring s.active c.count c.position
    match s.active[position]? with
    | some a => if a.entry.mark ≤ s.sc.cycleTime then some ({ c with position := position }, a) else none
    | none => none
  | _, _ => none

/-- The firing of an entry at its mark: what the firing record carries (R34), before step 4 has taken any out words. -/
def State.firingOf (s : State) (c : CycleInHand) (e : Entry) : Firing :=
  { handle := e.handle, kind := e.kind, lane := e.lane, outWords := [], inCount := e.inCount, ring := e.ring,
    notify := e.notify, cycle := c.count, tag := c.tag, start := s.sc.localTime, attached := true }

/-- The MARK event (R29). -/
def State.markEvent (s : State) (c : CycleInHand) (e : Entry) : Event :=
  { kind := .mark, subject := BitVec.ofNat 16 e.handle, cycle := c.count, time := s.sc.localTime,
    detail := BitVec.ofNat 32 e.mark }

/-- Step 3 of R31: a FETCH or SWAP reserves one slot on its ring (R33, R85). -/
def State.reserveFor (s : State) (e : Entry) : Except Verdict State :=
  if e.kind.receives then
    match s.rings[e.ring].reserve with
    | .ok r => .ok (s.setRing e.ring r)
    | .error v => .error v
  else .ok s

/-- Step 4 of R31: a SEND or SWAP takes a value set under its mode (R33, R49, R50). -/
def State.takeFor (s : State) (a : ActiveEntry) : Except Verdict (List StationWord × State) :=
  if a.entry.kind.sends then
    match a.run.take a.entry.mode with
    | some (words, run) => .ok (words, s.updateRun a.entry.handle fun _ => run)
    | none => .error .noValues
  else .ok ([], s)

/-- Steps 1 to 4 of R31: the outcome that the first failing check gives, or the words taken and the state with the slot
reserved. NO_VALUES returns the reservation, so a refusal leaves the state as it was. -/
def State.checkMark (s : State) (a : ActiveEntry) : Except Verdict (List StationWord × State) :=
  if s.lanes[a.entry.lane].state ≠ .ready then .error .laneNotReady
  else if s.lanes[a.entry.lane].inFlight.isSome then .error .laneBusy
  else
    match s.reserveFor a.entry with
    | .error v => .error v
    | .ok t => t.takeFor a

/-- Step 5 of R31: the request is sent under the firing record with the words taken in step 4, with the deadline mark +
window in local time (R34), and the record of its matrix tag has one more exchange in flight (R123). -/
def State.startExchange (s : State) (f : Firing) (e : Entry) (words : List StationWord) : State :=
  let t := s.sendRequest e.lane (.scheduled { f with outWords := words }) e.kind words e.inCount
    (.atLocal (f.start + BitVec.ofNat 32 e.window))
  { t with hm := t.hm.updateRecord f.tag fun m => { m with inFlight := m.inFlight + 1 } }

/-- The Dispatcher acts for a lane entry at its mark (R30, R31, R35). -/
def State.actFor (s : State) (f : Firing) (a : ActiveEntry) : State :=
  if a.run.disabled then (s.work.settle f .disabled 0 false).finish
  else
    match s.checkMark a with
    | .error v => (s.work.settle f v 0 false).finish
    | .ok (words, t) => t.startExchange f a.entry words

/-- The walk moves on to the next entry that fires (R28). -/
def State.passMark (s : State) (c : CycleInHand) : State :=
  { s with cycle := some { c with position := nextFiring s.active c.count (c.position + 1) } }

/-- MARK_REACHED (R28 to R31): the Dispatcher acts for the entry, and the walk moves on. -/
def State.markReached (s : State) : State :=
  match s.markDue with
  | none => s
  | some (c, a) =>
    if a.entry.kind.isLane then (s.passMark c).actFor (s.firingOf c a.entry) a
    else (s.passMark c).postAll [s.markEvent c a.entry]

/-- MARK_REACHED (R31). -/
def execMarkReached (s : State) : Host.Outcome State Fault Refusal := .next s.markReached

end Sys2Proof.Machine
end

