-- ==== Sys2Proof/Machine/Queues.lean ====
section
/-! DEFINITION. The Queue Engine and the Command Processor (chapter 8), with entry into FATAL (R172): the commands
QUEUE_CREATE, QUEUE_DELETE, BAD_OPCODE, SQ_TAIL_WRITE, CQ_HEAD_WRITE, FETCH_DECISION, FETCH_END, CQ_WRITE_END,
QUEUE_DELETE_FINISH and BUFFER_WRITE_END. -/

namespace Sys2Proof.Machine

/-! ### Entry into FATAL (R153, R172) -/

/-- A lane in FATAL: its exchange is abandoned, its training run and retrain timer stop, its receiver ignores the line;
its state keeps its value (R172). -/
def Lane.freeze (x : Lane) : Lane :=
  { x with
    inFlight := none, probesSent := 0, goodRun := 0, probeWait := 0, retrainTimer := none, receiver := .idle }

/-- The Time Base and Sync Controller in FATAL: stopped, OFF, transmitter recessive; the role keeps its value (R172). -/
def TimeSync.freeze (t : TimeSync) : TimeSync := { t with sync := .off, sending := none, receiving := none }

/-- The record in the holding place, whatever its pair, is discarded and retired without a record, so that it stops
counting as outstanding (R147). -/
def State.dropHeld (s : State) : State :=
  match s.holding with
  | some h => { s with holding := none }.retire h.pair 1
  | none => s

/-- Entry into FATAL (R172): a record in the holding place is discarded (R147, R153). A DMA request in progress ends
without effect, except the event record write being drained (R154). -/
def State.enterFatal (s : State) (cause : FatalCause) (fault : PairFault) : State :=
  { s.dropHeld with
    dev := .fatal, fatalCause := cause, adminFault := fault,
    fetching := none, executing := none, buffers := [],
    pairs := s.dropHeld.pairs.map fun (q : Pair) => { q with writing := none },
    cycle := none,
    sc := s.sc.freeze,
    lanes := s.lanes.map Lane.freeze,
    slotWriting := false }

/-! ### Pair faults (R151) -/

/-- The QUEUE_FAULT event (R151). -/
def State.queueFaultEvent (s : State) (p : PairId) (cause : PairFault) : Event :=
  s.event .queueFault (BitVec.ofNat 16 p.val) (pack [(cause.code, 0)])

/-- The pair as it enters ERROR: every handed completion is retired without a record (R151). -/
def Pair.faulted (q : Pair) (cause : PairFault) : Pair :=
  { (q.retired q.handed.length) with state := .error, cause := cause, handed := [] }

/-- A record of the pair in the holding place is discarded and retired without a record (R139, R147, R151). -/
def State.discardHeld (s : State) (p : PairId) : State :=
  match s.holding with
  | some h => if h.pair = p then s.dropHeld else s
  | none => s

/-- A fault of a pair (R151, R153): an ACTIVE pair enters ERROR and QUEUE_FAULT is posted; a pair that is not ACTIVE
takes none. A fault of pair 0 makes the device FATAL. -/
def State.faultPair (s : State) (p : PairId) (cause : PairFault) : State :=
  if s.pairs[p].state ≠ .active then s
  else
    let t := ((s.setPair p (s.pairs[p].faulted cause)).discardHeld p).postAll [s.queueFaultEvent p cause]
    if p = 0 then t.enterFatal .adminQueue cause else t

/-! ### Tail and head words (R141, R149) -/

/-- SQ_TAIL_WRITE (R141). -/
def State.sqTailWrite (s : State) (p : PairId) (value : Reg) : State :=
  if s.serving && s.pairs[p].serves then
    if value.toNat < s.pairs[p].depth then s.setPair p { s.pairs[p] with sqTail := value.toNat }
    else s.faultPair p .badTail
  else s

/-- How far a new head goes beyond a head, round a ring (R149, R161). -/
def advanceOf (depth head value : Nat) : Nat := (value + depth - head) % depth

/-- CQ_HEAD_WRITE (R149, R150). -/
def State.cqHeadWrite (s : State) (p : PairId) (value : Reg) : State :=
  if s.serving && s.pairs[p].serves then
    if value.toNat < s.pairs[p].depth ∧
        advanceOf s.pairs[p].depth s.pairs[p].cqHead value.toNat ≤ s.pairs[p].unconsumed then
      s.setPair p { s.pairs[p] with cqHead := value.toNat, armed := true }
    else s.faultPair p .badHead
  else s

/-! ### Fetching (R143, R144) -/

/-- A pair the arbiter may choose (R142, R143). -/
def Pair.eligible (q : Pair) : Bool :=
  q.serves && decide (0 < q.unfetched) && decide (q.outstanding + q.unconsumed + 2 ≤ q.depth)

/-- The order in which the arbiter looks at the pairs: it starts after the pointer and wraps (R143). -/
def arbiterOrder (pointer : PairId) : List PairId := [pointer + 1, pointer + 2, pointer + 3, pointer]

/-- The pair that the arbiter chooses, if it decides and one is eligible (R143). -/
def State.chosenPair (s : State) : Option PairId :=
  if s.serving && s.fetching.isNone && s.holding.isNone then
    (arbiterOrder s.pointer).find? fun p => s.pairs[p].eligible
  else none

/-- FETCH_DECISION (R143, R144): the pointer takes the pair chosen, and its record's read begins. -/
def State.fetchDecision (s : State) : State :=
  match s.chosenPair with
  | none => s
  | some p =>
    { s with pointer := p, fetching := some p }.emit
      (.dmaRead (s.pairs[p].sqBase + BitVec.ofNat 64 (64 * s.pairs[p].sqHead)))

/-- A position moves on by one, and wraps (R144, R148). -/
def advanceOne (depth position : Nat) : Nat := if position + 1 = depth then 0 else position + 1

/-- The pair after a fetch without error (R144). -/
def Pair.fetched (q : Pair) : Pair :=
  { q with sqHead := advanceOne q.depth q.sqHead, outstanding := q.outstanding + 1 }

/-- A record whose pair has ceased to serve during its fetch is discarded: a deleting pair counts it as retired (R139,
log entry 15), one in ERROR does not count it (R144). DESIGN CHOICE, unsafe: the SQ head and the outstanding count of a
deleting pair stay as they were (log entry 47). -/
def Pair.discarded (q : Pair) : Pair :=
  if q.state = .active then { q with deleting := q.deleting.map fun d => { d with retired := d.retired + 1 } } else q

/-- FETCH_END (R144). A record read without error for a deleting pair is discarded with the SQ head left where it was (log
entry 47). -/
def State.fetchEnd (s : State) (result : DmaRead) : State :=
  match s.serving, s.fetching with
  | true, some p =>
    let t := { s with fetching := none }
    match result with
    | .error => t.faultPair p .fetchError
    | .data r =>
      if s.pairs[p].serves then
        { t.setPair p s.pairs[p].fetched with
          holding := some { record := r, pair := p, sqHead := advanceOne s.pairs[p].depth s.pairs[p].sqHead } }
      else t.setPair p s.pairs[p].discarded
  | _, _ => s

/-- BAD_OPCODE (R145, R173): a held record whose opcode names no command is refused. -/
def State.refuseOpcode (s : State) : State :=
  match s.holding with
  | some h =>
    if s.serving && s.executing.isNone && decide (recordOpcode h.record ∉ opcodes) then
      { s with holding := none }.complete h.ref .badOpcode 0
    else s
  | none => s

/-! ### Completion writes (R148, R150) -/

/-- The pair after a completion write without error (R148, R150): positions, phase and counts move on, and a message
clears armed. -/
def Pair.wrote (q : Pair) : Pair :=
  { q with
    writing := none,
    cqTail := advanceOne q.depth q.cqTail,
    cqPhase := if q.cqTail + 1 = q.depth then !q.cqPhase else q.cqPhase,
    outstanding := q.outstanding - 1,
    armed := q.armed && !q.intEnable }

/-- Whether a record written to the pair sends a message (R150). -/
def Pair.signals (q : Pair) : Bool := q.intEnable && q.armed

/-- CQ_WRITE_END (R148, R151). A write that was in progress when its pair entered ERROR ends without effect on the ring,
and its command is retired at that end, so that a QUEUE DELETE begun before it counts the command (log entry 15). -/
def State.cqWriteEnd (s : State) (p : PairId) (result : DmaWrite) : State :=
  match s.serving, s.pairs[p].writing with
  | true, some _ =>
    if s.pairs[p].state ≠ .active then s.setPair p { (s.pairs[p].retired 1) with writing := none }
    else
      match result with
      | .ok =>
        (if s.pairs[p].signals then s.emit (.message (.pair p)) else s).beginCompletion p s.pairs[p].wrote
      | .error => (s.setPair p { (s.pairs[p].retired 1) with writing := none }).faultPair p .cqWriteError
  | _, _ => s

/-! ### Buffer writes (R152) -/

/-- BUFFER_WRITE_END (R152): a report's command is no longer in execution; the completion follows a good write, and a
failed one faults the command's pair. -/
def State.bufferWriteEnd (s : State) (index : Nat) (result : DmaWrite) : State :=
  match s.serving, s.buffers[index]? with
  | true, some b =>
    let t := { s with
      buffers := s.buffers.eraseIdx index,
      executing := if b.report then none else s.executing }
    match result with
    | .ok => t.complete b.ref .ok b.result
    | .error => (t.retire b.ref.pair 1).faultPair b.ref.pair .bufferWriteError
  | _, _ => s

/-! ### QUEUE_CREATE (R138) -/

/-- QUEUE CREATE on its pair, interrupt enable, depth and bases (R138). -/
def queueCreateOwner (r : CommandRecord) (ref : CmdRef) (s : State) : State :=
  match createdPairOfByte (recordByte r 8), flagByte (recordByte r 9) with
  | some p, some int =>
    if aligned64 (recordAddress r 16) = false ∨ aligned64 (recordAddress r 24) = false ∨
        powerOfTwoIn 4 4096 (recordField16 r 12) = false ∨ reservedZero r [(8, 9), (12, 13), (16, 31)] = false then
      s.complete ref .badField 0
    else if s.pairs[p].state ≠ .absent ∨ s.pairs[p].deleting.isSome then s.complete ref .inUse 0
    else
      (s.setPair p
        { Pair.reset with
          state := .active, sqBase := recordAddress r 16, cqBase := recordAddress r 24, depth := recordField16 r 12,
          intEnable := int }).complete ref .ok 0
  | _, _ => s.complete ref .badField 0

/-- QUEUE_CREATE (R138), admin-only. -/
def execQueueCreate (s : State) : Host.Outcome State Fault Refusal := .next (s.runCommand 0x60 (adminOnly queueCreateOwner))

/-! ### QUEUE_DELETE and QUEUE_DELETE_FINISH (R139, R140) -/

/-- A command was issued on the pair. -/
def CmdRef.from (p : PairId) (c : CmdRef) : Bool := decide (c.pair = p)

/-- Retires a command's completion with the work that held it, if it was issued on the pair: what stays is what is kept,
and how many are retired. -/
def dropRef (p : PairId) (waiting : Option CmdRef) : Option CmdRef × Nat :=
  match waiting with
  | some c => if c.from p then (none, 1) else (some c, 0)
  | none => (none, 0)

/-- The entry holds a deferred STAGE issued on the pair. -/
def ActiveEntry.holdsStage (p : PairId) (a : ActiveEntry) : Bool :=
  match a.run.stage with
  | some d => d.ref.from p
  | none => false

/-- The entry without a deferred STAGE issued on the pair; the set stays (R56). -/
def ActiveEntry.dropStage (p : PairId) (a : ActiveEntry) : ActiveEntry :=
  { a with run := { a.run with stage := a.run.stage.filter fun (d : DeferredStage) => !d.ref.from p } }

/-- The deferred STAGEs issued on the pair lose their completions; their sets stay (R56, R139). -/
def State.dropStages (s : State) (p : PairId) : State :=
  { s with active := s.active.map (ActiveEntry.dropStage p) }.retire p (s.active.countP (ActiveEntry.holdsStage p))

/-- An edit session owned by the pair is discarded, with any pending commit, which was issued on the same pair (R22,
R139). -/
def State.dropSession (s : State) (p : PairId) : State :=
  match s.session with
  | some x =>
    if x.owner = p then { s with session := none, edit := [] }.retire p (bit x.commit.isSome) else s
  | none => s

/-- Waiting TRAIN LANEs and waiting host exchanges issued on the pair lose their completions; the runs go on, the
exchanges leave their queues (R74, R80, R139). -/
def Lane.dropPair (p : PairId) (x : Lane) : Lane :=
  { x with
    waitingTrain := (dropRef p x.waitingTrain).1,
    queue := x.queue.filter fun (q : WaitingExchange) => !q.exchange.ref.from p }

/-- How many commands `Lane.dropPair` retires. -/
def Lane.droppedFor (p : PairId) (x : Lane) : Nat :=
  (dropRef p x.waitingTrain).2 + x.queue.countP fun (q : WaitingExchange) => q.exchange.ref.from p

/-- The lanes' part of a deletion. -/
def State.dropLaneWork (s : State) (p : PairId) : State :=
  { s with lanes := s.lanes.map (Lane.dropPair p) }.retire p ((s.lanes.toList.map (Lane.droppedFor p)).sum)

/-- A waiting RESIGN issued on the pair loses its completion; the hold stays set (R111, R139). -/
def State.dropResign (s : State) (p : PairId) : State :=
  { s with sc := { s.sc with resign := (dropRef p s.sc.resign).1 } }.retire p (dropRef p s.sc.resign).2

/-- Completions of the pair handed and not yet being written are retired without a record (R140, R146). -/
def State.dropHanded (s : State) (p : PairId) : State :=
  s.setPair p { (s.pairs[p].retired s.pairs[p].handed.length) with handed := [] }

/-- The first part of QUEUE DELETE (R139). -/
def State.beginDeletion (s : State) (p : PairId) (ref : CmdRef) : State :=
  let t := s.setPair p { s.pairs[p] with deleting := some { ref := ref, retired := 0 } }
  (((((t.discardHeld p).dropStages p).dropSession p).dropLaneWork p).dropResign p).dropHanded p

/-- The exchange in flight of the lane is a host exchange of the pair. -/
def Lane.carriesHost (p : PairId) (x : Lane) : Bool :=
  match x.inFlight with
  | some e =>
    match e.source with
    | .host h => h.ref.from p
    | _ => false
  | none => false

/-- The outstanding work of a pair that is deleting: a host exchange in flight, a completion write in progress, a fetch
in progress (R140). -/
def State.pairHasWork (s : State) (p : PairId) : Bool :=
  s.lanes.toList.any (Lane.carriesHost p) || s.pairs[p].writing.isSome || decide (s.fetching = some p)

/-- Reply buffer writes still in progress for the pair; their commands are retired when the pair becomes ABSENT, and the
writes end at their addresses (log entry 14). -/
def State.detachedBuffers (s : State) (p : PairId) : Nat := s.buffers.countP fun b => b.ref.from p

/-- The second part of QUEUE DELETE (R140): the pair becomes ABSENT, and QUEUE DELETE completes OK with the number of
commands retired without a record. -/
def State.endDeletion (s : State) (p : PairId) (d : Deletion) : State :=
  ({ s with buffers := s.buffers.filter fun b => !b.ref.from p }.setPair p Pair.reset).complete d.ref .ok
    (pack [(d.retired + s.detachedBuffers p, 0)])

/-- The second part is taken if the pair is deleting and has no outstanding work left (R140). -/
def State.finishDeletion (s : State) (p : PairId) : State :=
  match s.pairs[p].deleting with
  | some d => if s.pairHasWork p then s else s.endDeletion p d
  | none => s

/-- QUEUE DELETE on its pair (R139, R140). -/
def queueDeleteOwner (r : CommandRecord) (ref : CmdRef) (s : State) : State :=
  match createdPairOfByte (recordByte r 8) with
  | none => s.complete ref .badField 0
  | some p =>
    if reservedZero r [(8, 8)] = false then s.complete ref .badField 0
    else if s.pairs[p].state = .absent then s.complete ref .noQueue 0
    else if s.pairs[p].deleting.isSome then s.complete ref .wrongState 0
    else (s.beginDeletion p ref).finishDeletion p

/-- QUEUE_DELETE (R139), admin-only. -/
def execQueueDelete (s : State) : Host.Outcome State Fault Refusal := .next (s.runCommand 0x61 (adminOnly queueDeleteOwner))

/-- QUEUE_DELETE_FINISH (R140). -/
def execQueueDeleteFinish (pair : PairId) (s : State) : Host.Outcome State Fault Refusal :=
  .next (if s.serving then s.finishDeletion pair else s)

/-! ### The events of the Queue Engine -/

/-- BAD_OPCODE (R145). -/
def execBadOpcode (s : State) : Host.Outcome State Fault Refusal := .next s.refuseOpcode

/-- SQ_TAIL_WRITE (R141). -/
def execSqTailWrite (pair : PairId) (value : Reg) (s : State) : Host.Outcome State Fault Refusal :=
  .next (s.sqTailWrite pair value)

/-- CQ_HEAD_WRITE (R149). -/
def execCqHeadWrite (pair : PairId) (value : Reg) (s : State) : Host.Outcome State Fault Refusal :=
  .next (s.cqHeadWrite pair value)

/-- FETCH_DECISION (R143). -/
def execFetchDecision (s : State) : Host.Outcome State Fault Refusal := .next s.fetchDecision

/-- FETCH_END (R144). -/
def execFetchEnd (result : DmaRead) (s : State) : Host.Outcome State Fault Refusal := .next (s.fetchEnd result)

/-- CQ_WRITE_END (R148). -/
def execCqWriteEnd (pair : PairId) (result : DmaWrite) (s : State) : Host.Outcome State Fault Refusal :=
  .next (s.cqWriteEnd pair result)

/-- BUFFER_WRITE_END (R152). -/
def execBufferWriteEnd (index : Nat) (result : DmaWrite) (s : State) : Host.Outcome State Fault Refusal :=
  .next (s.bufferWriteEnd index result)

end Sys2Proof.Machine
end

