-- ==== Sys2Proof/Machine/Events.lean ====
section
/-! DEFINITION. The Event Writer's commands (chapter 9): EVENTS_OPEN, EQ_HEAD_WRITE and EVENT_WRITE_END. How an event is
accepted stands in Machine/Ops.lean. -/

namespace Sys2Proof.Machine

/-! ### Losses (R159, R162) -/

/-- The dropped count with `n` more, stopping at 65535 (R157, R162). -/
def EventWriter.drops (w : EventWriter) (n : Nat) : EventWriter := { w with dropped := min 65535 (w.dropped + n) }

/-- The losses that a set overflow carries (R159). -/
def EventWriter.suppressed (w : EventWriter) : Nat :=
  match w.overflow with
  | some o => o.count
  | none => 0

/-- The ring as it enters ERROR, with `lost` accepted records never written: they and a set overflow's losses are
dropped (R159, R162). -/
def EventWriter.fail (w : EventWriter) (cause : EventFault) (lost : Nat) : EventWriter :=
  { (w.drops (lost + w.suppressed)) with state := .error, cause := cause, queue := [], overflow := none }

/-- Records accepted and not being written yet: the oldest of the queue is being written, unless a write of the old ring
still is (R155, R162). -/
def EventWriter.unbegun (w : EventWriter) : Nat := if w.stray then w.queue.length else w.queue.length - 1

/-! ### EQ_HEAD_WRITE (R161) -/

/-- The OVERFLOW record (R159, section 11.3). -/
def State.overflowEvent (s : State) (o : Overflow) : Event :=
  { kind := .overflow, subject := BitVec.ofNat 16 o.kind.code, cycle := s.sc.cycleCount, time := o.time,
    detail := pack [(o.count, 0)] }

/-- Records written and unconsumed (R154). -/
def EventWriter.written (w : EventWriter) : Nat := w.occupancy - w.queue.length

/-- An accepted head: armed is set, and an advance of one or more has a set overflow accept its OVERFLOW record (R159,
R160, R161). -/
def State.eqHeadAccept (s : State) (value : Nat) : State :=
  let w := { s.ew with head := value, armed := true }
  if advanceOf s.ew.depth s.ew.head value = 0 then { s with ew := w }
  else
    match s.ew.overflow with
    | none => { s with ew := w }
    | some o =>
      let x := { w with overflow := none }.accept (s.overflowEvent o)
      { s with ew := x, outputs := (if s.ew.writing then [] else x.begun) ++ s.outputs }

/-- EQ_HEAD_WRITE (R161, R162): ignored unless the ring is ACTIVE, and in FATAL. -/
def State.eqHeadWrite (s : State) (value : Reg) : State :=
  if s.serving && decide (s.ew.state = .active) then
    if value.toNat < s.ew.depth ∧ advanceOf s.ew.depth s.ew.head value.toNat ≤ s.ew.written then
      s.eqHeadAccept value.toNat
    else { s with ew := { (s.ew.fail .badHead s.ew.unbegun) with stray := s.ew.writing } }
  else s

/-! ### EVENT_WRITE_END (R158) -/

/-- A record has been written: it leaves the queue, and a message clears armed (R158, R160). -/
def EventWriter.wrote (w : EventWriter) : EventWriter :=
  { w with queue := w.queue.tail, armed := w.armed && !w.intEnable }

/-- The message of a written record, if R160 asks for it. -/
def EventWriter.signal (w : EventWriter) : List Output := if w.intEnable && w.armed then [.message .eventRing] else []

/-- EVENT_WRITE_END (R155, R158, R160, R162). A write left from before a fault ends without effect on the ring; then the
new ring's oldest record, if there is one, begins. -/
def State.eventWriteEnd (s : State) (result : DmaWrite) : State :=
  if s.ew.stray then
    { s with ew := { s.ew with stray := false }, outputs := s.ew.begun ++ s.outputs }
  else
    match s.ew.queue, result with
    | [], _ => s
    | _ :: _, .ok => { s with ew := s.ew.wrote, outputs := s.ew.wrote.begun ++ s.ew.signal ++ s.outputs }
    | _ :: _, .error => { s with ew := s.ew.fail .writeError s.ew.queue.length }

/-! ### EVENTS_OPEN (R155) -/

/-- The state code that the result of EVENTS OPEN shows (section 11.2). -/
def previousCode : RingState → Nat
  | .error => 2
  | _ => 0

/-- EVENTS OPEN on its interrupt enable, depth and base (R155). -/
def eventsOpenOwner (r : CommandRecord) (ref : CmdRef) (s : State) : State :=
  match flagByte (recordByte r 9) with
  | none => s.complete ref .badField 0
  | some int =>
    if aligned64 (recordAddress r 16) = false ∨ powerOfTwoIn 16 4096 (recordField16 r 12) = false ∨
        reservedZero r [(9, 9), (12, 13), (16, 23)] = false then s.complete ref .badField 0
    else if s.ew.state = .active then s.complete ref .inUse 0
    else
      { s with
        ew := { EventWriter.reset with
          state := .active, base := recordAddress r 16, depth := recordField16 r 12, intEnable := int,
          stray := s.ew.stray } }.complete ref .ok
        (pack [(previousCode s.ew.state, 0), (s.ew.cause.code, 8), (s.ew.dropped, 16)])

/-- EVENTS_OPEN (R155), admin-only. -/
def execEventsOpen (s : State) : Host.Outcome State Fault Refusal := .next (s.runCommand 0x50 (adminOnly eventsOpenOwner))

/-- EQ_HEAD_WRITE (R161). -/
def execEqHeadWrite (value : Reg) (s : State) : Host.Outcome State Fault Refusal := .next (s.eqHeadWrite value)

/-- EVENT_WRITE_END (R158). -/
def execEventWriteEnd (result : DmaWrite) (s : State) : Host.Outcome State Fault Refusal := .next (s.eventWriteEnd result)

end Sys2Proof.Machine
end

