-- ==== Sys2Proof/Machine/Device.lean ====
section
/-! DEFINITION. The device (chapter 10): ENABLE_SET, ENABLE_CLEAR, FUNCTION_LEVEL_RESET, DEVICE_RESET, REGISTER_WRITE,
START and STOP; and one reference clock of time, which an empty queue of commands lets pass. -/

namespace Sys2Proof.Machine

/-! ### ENABLE and the resets (R166 to R168) -/

/-- The admin registers describe a usable ring pair (R166). -/
def State.adminValid (s : State) : Bool :=
  decide (s.adminSq.toNat % 64 = 0) && decide (s.adminCq.toNat % 64 = 0) &&
    decide (2 ≤ s.adminDepth.toNat ∧ s.adminDepth.toNat ≤ 12)

/-- Pair 0 as ENABLE makes it (R137, R166). -/
def State.adminPair (s : State) : Pair :=
  { Pair.reset with
    state := .active, sqBase := s.adminSq.setWidth 64, cqBase := s.adminCq.setWidth 64,
    depth := 2 ^ s.adminDepth.toNat, intEnable := true }

/-- ENABLE_SET (R166): a write of ENABLE equal to its present value changes nothing (R163). -/
def State.enableSet (s : State) : State :=
  if s.enable then s
  else if s.adminValid then { s with enable := true, dev := .config }.setPair 0 s.adminPair
  else { s with enable := true }.enterFatal .badAdmin .none

/-- A device reset (R167). What has already been sent out, and what waits to be presented, is outside the part; the
counter of free values goes on (log entry 4). -/
def State.deviceReset (s : State) : State :=
  { State.reset with outputs := s.outputs, free := s.free, pending := s.pending }

/-- A function reset (R168): the admin registers keep their values. -/
def State.functionReset (s : State) : State :=
  { s.deviceReset with adminSq := s.adminSq, adminCq := s.adminCq, adminDepth := s.adminDepth }

/-- ENABLE_CLEAR (R168): a write of ENABLE equal to its present value changes nothing (R163). -/
def State.enableClear (s : State) : State := if s.enable then s.functionReset else s

/-! ### The register window (R163) -/

/-- A write of a whole aligned word (R163). Offsets with no writable register are ignored. -/
def State.writeRegister (s : State) (offset : Nat) (value : Reg) : State :=
  match offset with
  | 0x04 => if value.getLsbD 0 then s.enableSet else s.enableClear
  | 0x0C => { s with adminSq := value }
  | 0x10 => { s with adminCq := value }
  | 0x14 => { s with adminDepth := value.setWidth 4 }
  | 0x18 => s.sqTailWrite 0 value
  | 0x1C => s.sqTailWrite 1 value
  | 0x20 => s.sqTailWrite 2 value
  | 0x24 => s.sqTailWrite 3 value
  | 0x28 => s.cqHeadWrite 0 value
  | 0x2C => s.cqHeadWrite 1 value
  | 0x30 => s.cqHeadWrite 2 value
  | 0x34 => s.cqHeadWrite 3 value
  | 0x38 => s.eqHeadWrite value
  | _ => s

/-- REGISTER_WRITE: an access of less than a whole aligned word is ignored (R163). -/
def State.registerWrite (s : State) (offset size : Nat) (value : Reg) : State :=
  if size = 4 then s.writeRegister offset value else s

/-! ### START (R169) -/

/-- The Time Base and Sync Controller as START makes it (R98, R99, R104, R113, R121, R169). DESIGN CHOICE, unsafe: an own
beacon that is still on the pair from before STOP stays one that gives no edge and no clash (log entry 43). -/
def TimeSync.started (t : TimeSync) (p : Plan) : TimeSync :=
  { t with
    localTime := 0, cycleTime := 0, cycleCount := 0, stuCarry := 0, trim := 0, trimState := .tracking, goodRun := 0,
    role := p.startRole, lastLeader := none, activity := false, firstFreeRun := true, rejectedInRun := 0,
    opening := none }

/-- The Health Monitor as START makes it, before it evaluates the conditions (R129, R131, R133, R169). -/
def State.healthStarted (s : State) : HealthMonitor :=
  if s.reportsOn then
    { { s.hm with expected := s.expectedNow, matrixNumber := 0 }.beginRecord true with degraded := false }
  else { s.hm with expected := s.expectedNow, degraded := false }

/-- The blocks act at START, in the order of R169. -/
def State.startDevice (s : State) (p : Plan) : State :=
  let t := { s with dev := .running, haltCause := .none, sc := (s.sc.started p).nextStu p.stu }
  ((t.work.setSync .unsynced .start).flush.on fun u => { u with hm := u.healthStarted }).evaluate.finish

/-- START (R169). -/
def startOwner (r : CommandRecord) (ref : CmdRef) (s : State) : State :=
  if reservedZero r [] = false then s.complete ref .badField 0
  else if s.dev ≠ .config then s.complete ref .wrongState 0
  else
    match s.validate s.activeEntries, s.sc.plan with
    | some v, _ => s.complete ref v.status v.result
    | none, none => s
    | none, some p => (s.startDevice p).complete ref .ok 0

/-- START (R169), admin-only. -/
def execStart (s : State) : Host.Outcome State Fault Refusal := .next (s.runCommand 0x70 (adminOnly startOwner))

/-! ### STOP (R170) -/

/-- The blocks act at STOP, in the order of R170. -/
def State.stopDevice (s : State) : State :=
  let wasLocked := decide (s.sc.sync = .locked)
  let w := ({ s with dev := .config, cycle := none }.swapPending true).work
  let w1 := if s.sc.sync = .off then w else w.leaveSync .stopped
  ((w1.flush.on State.stopTime).closeMatrix wasLocked).finish

/-- STOP (R170). -/
def stopOwner (r : CommandRecord) (ref : CmdRef) (s : State) : State :=
  if reservedZero r [] = false then s.complete ref .badField 0
  else if s.dev = .config then s.complete ref .wrongState 0
  else s.stopDevice.complete ref .ok 0

/-- STOP (R170), admin-only. -/
def execStop (s : State) : Host.Outcome State Fault Refusal := .next (s.runCommand 0x71 (adminOnly stopOwner))

/-! ### The device's other commands -/

/-- ENABLE_SET (R166). -/
def execEnableSet (s : State) : Host.Outcome State Fault Refusal := .next s.enableSet

/-- ENABLE_CLEAR (R168). -/
def execEnableClear (s : State) : Host.Outcome State Fault Refusal := .next s.enableClear

/-- FUNCTION_LEVEL_RESET (R168). -/
def execFunctionLevelReset (s : State) : Host.Outcome State Fault Refusal := .next s.functionReset

/-- DEVICE_RESET (R167). -/
def execDeviceReset (s : State) : Host.Outcome State Fault Refusal := .next s.deviceReset

/-- REGISTER_WRITE (R163). -/
def execRegisterWrite (offset size : Nat) (value : Reg) (s : State) : Host.Outcome State Fault Refusal :=
  .next (s.registerWrite offset size value)

/-! ### One reference clock (0.5, R98, R99; log entry 3) -/

/-- Something of a lane that happens at this instant has not been presented yet (R66, R71, R72, R78). -/
def State.laneDue (s : State) (l : LaneId) : Bool :=
  s.deadlineDue l || s.probeDue l || s.retrainDue l || s.hostMayStart l

/-- A beacon start or the end of a cycle without an edge falls at this instant (R99, R105 to R107, R113, R114). -/
def State.cycleDue (s : State) : Bool :=
  match s.sc.plan with
  | some p =>
    s.leaderDue p || s.backupDue p || s.freeRunDue p || s.watchDue p || s.freeRunEnds p || s.haltedEnds p
  | none => false

/-- A timed event falls at this instant and has not been presented yet: time waits for it (log entry 3). -/
def State.eventDue (s : State) : Bool :=
  s.markDue.isSome || s.ownBeaconDue || s.cycleDue || (List.finRange 8).any fun l => s.laneDue l

/-- A deadline counted in reference clocks (R66). -/
def Exchange.tick (e : Exchange) : Exchange :=
  match e.deadline with
  | .inClocks n => { e with deadline := .inClocks (n - 1) }
  | .atLocal _ => e

/-- A lane's real-time counts: the probe interval, the retrain timer, a deadline in clocks (R66, R71, R72). -/
def Lane.tick (x : Lane) : Lane :=
  { x with
    probeWait := x.probeWait - 1,
    retrainTimer := x.retrainTimer.map fun n => n - 1,
    inFlight := x.inFlight.map Exchange.tick }

/-- The end of an STU (R98, R99): local time and cycle time count it, and the next STU begins. A pair that is busy when
cycle time reaches BM shows activity (R108). -/
def TimeSync.endStu (t : TimeSync) (p : Plan) : TimeSync :=
  { (t.nextStu p.stu) with
    localTime := t.localTime + 1,
    cycleTime := min 65535 (t.cycleTime + 1),
    activity := t.activity || (decide (p.bm ≤ t.cycleTime + 1) && !t.pairIdle) }

/-- One reference clock of the time base (R98). -/
def State.tickTime (s : State) : TimeSync :=
  match s.timeRuns, s.sc.plan with
  | true, some p => if s.sc.stuLeft ≤ 1 then s.sc.endStu p else { s.sc with stuLeft := s.sc.stuLeft - 1 }
  | _, _ => s.sc

/-- One reference clock passes, unless a timed event falls at this instant. In OFF and FATAL nothing counts time. -/
def State.tick (s : State) : State :=
  if s.serving && !s.eventDue then
    { s with
      lanes := s.lanes.map Lane.tick,
      sc := { s.tickTime with
        sending := s.tickTime.sending.map fun (b : OwnBeacon) => { b with clocks := b.clocks + 1 } } }
  else s

end Sys2Proof.Machine
end

