-- ==== Sys2Proof/Machine/Dispatch.lean ====
section
/-! DEFINITION. One arm per command: each calls the command's meaning. -/

namespace Sys2Proof.Machine

def exec (i : Instr) (s : State) : Host.Outcome State Fault Refusal :=
  match i with
  | .editBegin => Sys2Proof.Machine.execEditBegin s
  | .entryInsert => Sys2Proof.Machine.execEntryInsert s
  | .entryRemove => Sys2Proof.Machine.execEntryRemove s
  | .entryModify => Sys2Proof.Machine.execEntryModify s
  | .readEntry => Sys2Proof.Machine.execReadEntry s
  | .editCommit => Sys2Proof.Machine.execEditCommit s
  | .editDiscard => Sys2Proof.Machine.execEditDiscard s
  | .stageValues => Sys2Proof.Machine.execStageValues s
  | .entryClearValues => Sys2Proof.Machine.execEntryClearValues s
  | .entryRearm => Sys2Proof.Machine.execEntryRearm s
  | .laneConfigure => Sys2Proof.Machine.execLaneConfigure s
  | .trainLane => Sys2Proof.Machine.execTrainLane s
  | .laneExchange => Sys2Proof.Machine.execLaneExchange s
  | .readLane => Sys2Proof.Machine.execReadLane s
  | .ringCreate => Sys2Proof.Machine.execRingCreate s
  | .ringRelease => Sys2Proof.Machine.execRingRelease s
  | .ringDelete => Sys2Proof.Machine.execRingDelete s
  | .setCyclePlan => Sys2Proof.Machine.execSetCyclePlan s
  | .readTime => Sys2Proof.Machine.execReadTime s
  | .resign => Sys2Proof.Machine.execResign s
  | .eventsOpen => Sys2Proof.Machine.execEventsOpen s
  | .queueCreate => Sys2Proof.Machine.execQueueCreate s
  | .queueDelete => Sys2Proof.Machine.execQueueDelete s
  | .start => Sys2Proof.Machine.execStart s
  | .stop => Sys2Proof.Machine.execStop s
  | .badOpcode => Sys2Proof.Machine.execBadOpcode s
  | .enableSet => Sys2Proof.Machine.execEnableSet s
  | .enableClear => Sys2Proof.Machine.execEnableClear s
  | .functionLevelReset => Sys2Proof.Machine.execFunctionLevelReset s
  | .deviceReset => Sys2Proof.Machine.execDeviceReset s
  | .sqTailWrite pair value => Sys2Proof.Machine.execSqTailWrite pair value s
  | .cqHeadWrite pair value => Sys2Proof.Machine.execCqHeadWrite pair value s
  | .eqHeadWrite value => Sys2Proof.Machine.execEqHeadWrite value s
  | .registerWrite offset size value => Sys2Proof.Machine.execRegisterWrite offset size value s
  | .fetchDecision => Sys2Proof.Machine.execFetchDecision s
  | .fetchEnd result => Sys2Proof.Machine.execFetchEnd result s
  | .cqWriteEnd pair result => Sys2Proof.Machine.execCqWriteEnd pair result s
  | .queueDeleteFinish pair => Sys2Proof.Machine.execQueueDeleteFinish pair s
  | .bufferWriteEnd index result => Sys2Proof.Machine.execBufferWriteEnd index result s
  | .markReached => Sys2Proof.Machine.execMarkReached s
  | .replyComplete lane cells => Sys2Proof.Machine.execReplyComplete lane cells s
  | .exchangeDeadline lane => Sys2Proof.Machine.execExchangeDeadline lane s
  | .lineIdleTimeout lane cells => Sys2Proof.Machine.execLineIdleTimeout lane cells s
  | .staleFrame lane cells => Sys2Proof.Machine.execStaleFrame lane cells s
  | .probeInterval lane => Sys2Proof.Machine.execProbeInterval lane s
  | .retrainTimerExpiry lane => Sys2Proof.Machine.execRetrainTimerExpiry lane s
  | .hostExchangeStart lane => Sys2Proof.Machine.execHostExchangeStart lane s
  | .slotWriteStart => Sys2Proof.Machine.execSlotWriteStart s
  | .slotWriteEnd result => Sys2Proof.Machine.execSlotWriteEnd result s
  | .ringDeleteFinish ring => Sys2Proof.Machine.execRingDeleteFinish ring s
  | .beaconCapture => Sys2Proof.Machine.execBeaconCapture s
  | .beaconReceived bits => Sys2Proof.Machine.execBeaconReceived bits s
  | .leaderBeaconStart => Sys2Proof.Machine.execLeaderBeaconStart s
  | .backupBeaconStart => Sys2Proof.Machine.execBackupBeaconStart s
  | .freeRunBeaconStart => Sys2Proof.Machine.execFreeRunBeaconStart s
  | .ownBeaconEnd => Sys2Proof.Machine.execOwnBeaconEnd s
  | .arbitrationLoss position => Sys2Proof.Machine.execArbitrationLoss position s
  | .beaconClash position => Sys2Proof.Machine.execBeaconClash position s
  | .watchExpiry => Sys2Proof.Machine.execWatchExpiry s
  | .freeRunCycle => Sys2Proof.Machine.execFreeRunCycle s
  | .haltedCycleRestart => Sys2Proof.Machine.execHaltedCycleRestart s
  | .matrixReport => Sys2Proof.Machine.execMatrixReport s
  | .eventWriteEnd result => Sys2Proof.Machine.execEventWriteEnd result s
  | .laneFrameBegins lane => Sys2Proof.Machine.execLaneFrameBegins lane s
  | .cutOffReplyEnds lane => Sys2Proof.Machine.execCutOffReplyEnds lane s

end Sys2Proof.Machine
end

