-- ==== Sys2Proof/Laws/State.lean ====
section
/-! SUPPORT. What each update of one element leaves as it was: one lemma per field per update, so that no proof unfolds an
update of `State`; and the read after the write of a pair, a lane, a ring. -/

namespace Sys2Proof.Machine

/-! ### `State.setPair` -/

@[simp] theorem State.setPair_dev (s : State) (p : PairId) (q : Pair) : (s.setPair p q).dev = s.dev := rfl
@[simp] theorem State.setPair_enable (s : State) (p : PairId) (q : Pair) : (s.setPair p q).enable = s.enable := rfl
@[simp] theorem State.setPair_adminSq (s : State) (p : PairId) (q : Pair) : (s.setPair p q).adminSq = s.adminSq := rfl
@[simp] theorem State.setPair_adminCq (s : State) (p : PairId) (q : Pair) : (s.setPair p q).adminCq = s.adminCq := rfl
@[simp] theorem State.setPair_adminDepth (s : State) (p : PairId) (q : Pair) : (s.setPair p q).adminDepth = s.adminDepth := rfl
@[simp] theorem State.setPair_fatalCause (s : State) (p : PairId) (q : Pair) : (s.setPair p q).fatalCause = s.fatalCause := rfl
@[simp] theorem State.setPair_adminFault (s : State) (p : PairId) (q : Pair) : (s.setPair p q).adminFault = s.adminFault := rfl
@[simp] theorem State.setPair_haltCause (s : State) (p : PairId) (q : Pair) : (s.setPair p q).haltCause = s.haltCause := rfl
@[simp] theorem State.setPair_pointer (s : State) (p : PairId) (q : Pair) : (s.setPair p q).pointer = s.pointer := rfl
@[simp] theorem State.setPair_holding (s : State) (p : PairId) (q : Pair) : (s.setPair p q).holding = s.holding := rfl
@[simp] theorem State.setPair_fetching (s : State) (p : PairId) (q : Pair) : (s.setPair p q).fetching = s.fetching := rfl
@[simp] theorem State.setPair_executing (s : State) (p : PairId) (q : Pair) : (s.setPair p q).executing = s.executing := rfl
@[simp] theorem State.setPair_buffers (s : State) (p : PairId) (q : Pair) : (s.setPair p q).buffers = s.buffers := rfl
@[simp] theorem State.setPair_active (s : State) (p : PairId) (q : Pair) : (s.setPair p q).active = s.active := rfl
@[simp] theorem State.setPair_edit (s : State) (p : PairId) (q : Pair) : (s.setPair p q).edit = s.edit := rfl
@[simp] theorem State.setPair_session (s : State) (p : PairId) (q : Pair) : (s.setPair p q).session = s.session := rfl
@[simp] theorem State.setPair_cycle (s : State) (p : PairId) (q : Pair) : (s.setPair p q).cycle = s.cycle := rfl
@[simp] theorem State.setPair_lanes (s : State) (p : PairId) (q : Pair) : (s.setPair p q).lanes = s.lanes := rfl
@[simp] theorem State.setPair_rings (s : State) (p : PairId) (q : Pair) : (s.setPair p q).rings = s.rings := rfl
@[simp] theorem State.setPair_slotQueue (s : State) (p : PairId) (q : Pair) : (s.setPair p q).slotQueue = s.slotQueue := rfl
@[simp] theorem State.setPair_slotWriting (s : State) (p : PairId) (q : Pair) : (s.setPair p q).slotWriting = s.slotWriting := rfl
@[simp] theorem State.setPair_sc (s : State) (p : PairId) (q : Pair) : (s.setPair p q).sc = s.sc := rfl
@[simp] theorem State.setPair_hm (s : State) (p : PairId) (q : Pair) : (s.setPair p q).hm = s.hm := rfl
@[simp] theorem State.setPair_ew (s : State) (p : PairId) (q : Pair) : (s.setPair p q).ew = s.ew := rfl
@[simp] theorem State.setPair_outputs (s : State) (p : PairId) (q : Pair) : (s.setPair p q).outputs = s.outputs := rfl
@[simp] theorem State.setPair_free (s : State) (p : PairId) (q : Pair) : (s.setPair p q).free = s.free := rfl
@[simp] theorem State.setPair_pending (s : State) (p : PairId) (q : Pair) : (s.setPair p q).pending = s.pending := rfl

/-! ### `State.setLane` -/

@[simp] theorem State.setLane_dev (s : State) (l : LaneId) (x : Lane) : (s.setLane l x).dev = s.dev := rfl
@[simp] theorem State.setLane_enable (s : State) (l : LaneId) (x : Lane) : (s.setLane l x).enable = s.enable := rfl
@[simp] theorem State.setLane_adminSq (s : State) (l : LaneId) (x : Lane) : (s.setLane l x).adminSq = s.adminSq := rfl
@[simp] theorem State.setLane_adminCq (s : State) (l : LaneId) (x : Lane) : (s.setLane l x).adminCq = s.adminCq := rfl
@[simp] theorem State.setLane_adminDepth (s : State) (l : LaneId) (x : Lane) : (s.setLane l x).adminDepth = s.adminDepth := rfl
@[simp] theorem State.setLane_fatalCause (s : State) (l : LaneId) (x : Lane) : (s.setLane l x).fatalCause = s.fatalCause := rfl
@[simp] theorem State.setLane_adminFault (s : State) (l : LaneId) (x : Lane) : (s.setLane l x).adminFault = s.adminFault := rfl
@[simp] theorem State.setLane_haltCause (s : State) (l : LaneId) (x : Lane) : (s.setLane l x).haltCause = s.haltCause := rfl
@[simp] theorem State.setLane_pairs (s : State) (l : LaneId) (x : Lane) : (s.setLane l x).pairs = s.pairs := rfl
@[simp] theorem State.setLane_pointer (s : State) (l : LaneId) (x : Lane) : (s.setLane l x).pointer = s.pointer := rfl
@[simp] theorem State.setLane_holding (s : State) (l : LaneId) (x : Lane) : (s.setLane l x).holding = s.holding := rfl
@[simp] theorem State.setLane_fetching (s : State) (l : LaneId) (x : Lane) : (s.setLane l x).fetching = s.fetching := rfl
@[simp] theorem State.setLane_executing (s : State) (l : LaneId) (x : Lane) : (s.setLane l x).executing = s.executing := rfl
@[simp] theorem State.setLane_buffers (s : State) (l : LaneId) (x : Lane) : (s.setLane l x).buffers = s.buffers := rfl
@[simp] theorem State.setLane_active (s : State) (l : LaneId) (x : Lane) : (s.setLane l x).active = s.active := rfl
@[simp] theorem State.setLane_edit (s : State) (l : LaneId) (x : Lane) : (s.setLane l x).edit = s.edit := rfl
@[simp] theorem State.setLane_session (s : State) (l : LaneId) (x : Lane) : (s.setLane l x).session = s.session := rfl
@[simp] theorem State.setLane_cycle (s : State) (l : LaneId) (x : Lane) : (s.setLane l x).cycle = s.cycle := rfl
@[simp] theorem State.setLane_rings (s : State) (l : LaneId) (x : Lane) : (s.setLane l x).rings = s.rings := rfl
@[simp] theorem State.setLane_slotQueue (s : State) (l : LaneId) (x : Lane) : (s.setLane l x).slotQueue = s.slotQueue := rfl
@[simp] theorem State.setLane_slotWriting (s : State) (l : LaneId) (x : Lane) : (s.setLane l x).slotWriting = s.slotWriting := rfl
@[simp] theorem State.setLane_sc (s : State) (l : LaneId) (x : Lane) : (s.setLane l x).sc = s.sc := rfl
@[simp] theorem State.setLane_hm (s : State) (l : LaneId) (x : Lane) : (s.setLane l x).hm = s.hm := rfl
@[simp] theorem State.setLane_ew (s : State) (l : LaneId) (x : Lane) : (s.setLane l x).ew = s.ew := rfl
@[simp] theorem State.setLane_outputs (s : State) (l : LaneId) (x : Lane) : (s.setLane l x).outputs = s.outputs := rfl
@[simp] theorem State.setLane_free (s : State) (l : LaneId) (x : Lane) : (s.setLane l x).free = s.free := rfl
@[simp] theorem State.setLane_pending (s : State) (l : LaneId) (x : Lane) : (s.setLane l x).pending = s.pending := rfl

/-! ### `State.setRing` -/

@[simp] theorem State.setRing_dev (s : State) (i : RingId) (r : InRing) : (s.setRing i r).dev = s.dev := rfl
@[simp] theorem State.setRing_enable (s : State) (i : RingId) (r : InRing) : (s.setRing i r).enable = s.enable := rfl
@[simp] theorem State.setRing_adminSq (s : State) (i : RingId) (r : InRing) : (s.setRing i r).adminSq = s.adminSq := rfl
@[simp] theorem State.setRing_adminCq (s : State) (i : RingId) (r : InRing) : (s.setRing i r).adminCq = s.adminCq := rfl
@[simp] theorem State.setRing_adminDepth (s : State) (i : RingId) (r : InRing) : (s.setRing i r).adminDepth = s.adminDepth := rfl
@[simp] theorem State.setRing_fatalCause (s : State) (i : RingId) (r : InRing) : (s.setRing i r).fatalCause = s.fatalCause := rfl
@[simp] theorem State.setRing_adminFault (s : State) (i : RingId) (r : InRing) : (s.setRing i r).adminFault = s.adminFault := rfl
@[simp] theorem State.setRing_haltCause (s : State) (i : RingId) (r : InRing) : (s.setRing i r).haltCause = s.haltCause := rfl
@[simp] theorem State.setRing_pairs (s : State) (i : RingId) (r : InRing) : (s.setRing i r).pairs = s.pairs := rfl
@[simp] theorem State.setRing_pointer (s : State) (i : RingId) (r : InRing) : (s.setRing i r).pointer = s.pointer := rfl
@[simp] theorem State.setRing_holding (s : State) (i : RingId) (r : InRing) : (s.setRing i r).holding = s.holding := rfl
@[simp] theorem State.setRing_fetching (s : State) (i : RingId) (r : InRing) : (s.setRing i r).fetching = s.fetching := rfl
@[simp] theorem State.setRing_executing (s : State) (i : RingId) (r : InRing) : (s.setRing i r).executing = s.executing := rfl
@[simp] theorem State.setRing_buffers (s : State) (i : RingId) (r : InRing) : (s.setRing i r).buffers = s.buffers := rfl
@[simp] theorem State.setRing_active (s : State) (i : RingId) (r : InRing) : (s.setRing i r).active = s.active := rfl
@[simp] theorem State.setRing_edit (s : State) (i : RingId) (r : InRing) : (s.setRing i r).edit = s.edit := rfl
@[simp] theorem State.setRing_session (s : State) (i : RingId) (r : InRing) : (s.setRing i r).session = s.session := rfl
@[simp] theorem State.setRing_cycle (s : State) (i : RingId) (r : InRing) : (s.setRing i r).cycle = s.cycle := rfl
@[simp] theorem State.setRing_lanes (s : State) (i : RingId) (r : InRing) : (s.setRing i r).lanes = s.lanes := rfl
@[simp] theorem State.setRing_slotQueue (s : State) (i : RingId) (r : InRing) : (s.setRing i r).slotQueue = s.slotQueue := rfl
@[simp] theorem State.setRing_slotWriting (s : State) (i : RingId) (r : InRing) : (s.setRing i r).slotWriting = s.slotWriting := rfl
@[simp] theorem State.setRing_sc (s : State) (i : RingId) (r : InRing) : (s.setRing i r).sc = s.sc := rfl
@[simp] theorem State.setRing_hm (s : State) (i : RingId) (r : InRing) : (s.setRing i r).hm = s.hm := rfl
@[simp] theorem State.setRing_ew (s : State) (i : RingId) (r : InRing) : (s.setRing i r).ew = s.ew := rfl
@[simp] theorem State.setRing_outputs (s : State) (i : RingId) (r : InRing) : (s.setRing i r).outputs = s.outputs := rfl
@[simp] theorem State.setRing_free (s : State) (i : RingId) (r : InRing) : (s.setRing i r).free = s.free := rfl
@[simp] theorem State.setRing_pending (s : State) (i : RingId) (r : InRing) : (s.setRing i r).pending = s.pending := rfl

/-! ### `State.emit` -/

@[simp] theorem State.emit_dev (s : State) (o : Output) : (s.emit o).dev = s.dev := rfl
@[simp] theorem State.emit_enable (s : State) (o : Output) : (s.emit o).enable = s.enable := rfl
@[simp] theorem State.emit_adminSq (s : State) (o : Output) : (s.emit o).adminSq = s.adminSq := rfl
@[simp] theorem State.emit_adminCq (s : State) (o : Output) : (s.emit o).adminCq = s.adminCq := rfl
@[simp] theorem State.emit_adminDepth (s : State) (o : Output) : (s.emit o).adminDepth = s.adminDepth := rfl
@[simp] theorem State.emit_fatalCause (s : State) (o : Output) : (s.emit o).fatalCause = s.fatalCause := rfl
@[simp] theorem State.emit_adminFault (s : State) (o : Output) : (s.emit o).adminFault = s.adminFault := rfl
@[simp] theorem State.emit_haltCause (s : State) (o : Output) : (s.emit o).haltCause = s.haltCause := rfl
@[simp] theorem State.emit_pairs (s : State) (o : Output) : (s.emit o).pairs = s.pairs := rfl
@[simp] theorem State.emit_pointer (s : State) (o : Output) : (s.emit o).pointer = s.pointer := rfl
@[simp] theorem State.emit_holding (s : State) (o : Output) : (s.emit o).holding = s.holding := rfl
@[simp] theorem State.emit_fetching (s : State) (o : Output) : (s.emit o).fetching = s.fetching := rfl
@[simp] theorem State.emit_executing (s : State) (o : Output) : (s.emit o).executing = s.executing := rfl
@[simp] theorem State.emit_buffers (s : State) (o : Output) : (s.emit o).buffers = s.buffers := rfl
@[simp] theorem State.emit_active (s : State) (o : Output) : (s.emit o).active = s.active := rfl
@[simp] theorem State.emit_edit (s : State) (o : Output) : (s.emit o).edit = s.edit := rfl
@[simp] theorem State.emit_session (s : State) (o : Output) : (s.emit o).session = s.session := rfl
@[simp] theorem State.emit_cycle (s : State) (o : Output) : (s.emit o).cycle = s.cycle := rfl
@[simp] theorem State.emit_lanes (s : State) (o : Output) : (s.emit o).lanes = s.lanes := rfl
@[simp] theorem State.emit_rings (s : State) (o : Output) : (s.emit o).rings = s.rings := rfl
@[simp] theorem State.emit_slotQueue (s : State) (o : Output) : (s.emit o).slotQueue = s.slotQueue := rfl
@[simp] theorem State.emit_slotWriting (s : State) (o : Output) : (s.emit o).slotWriting = s.slotWriting := rfl
@[simp] theorem State.emit_sc (s : State) (o : Output) : (s.emit o).sc = s.sc := rfl
@[simp] theorem State.emit_hm (s : State) (o : Output) : (s.emit o).hm = s.hm := rfl
@[simp] theorem State.emit_ew (s : State) (o : Output) : (s.emit o).ew = s.ew := rfl
@[simp] theorem State.emit_free (s : State) (o : Output) : (s.emit o).free = s.free := rfl
@[simp] theorem State.emit_pending (s : State) (o : Output) : (s.emit o).pending = s.pending := rfl

@[simp] theorem State.emit_outputs (s : State) (o : Output) : (s.emit o).outputs = o :: s.outputs := rfl

/-! ### Reads after writes -/

@[simp] theorem State.setPair_same (s : State) (p : PairId) (q : Pair) : (s.setPair p q).pairs[(p : Nat)] = q := by
  simp [State.setPair]

theorem State.setPair_other (s : State) (p : PairId) (q : Pair) (k : PairId) (h : k ≠ p) : (s.setPair p q).pairs[k] = s.pairs[k] := by
  have : (p : Nat) ≠ (k : Nat) := fun e => h (Fin.ext e.symm)
  simp [State.setPair, this]

@[simp] theorem State.setLane_same (s : State) (l : LaneId) (x : Lane) : (s.setLane l x).lanes[(l : Nat)] = x := by
  simp [State.setLane]

theorem State.setLane_other (s : State) (l : LaneId) (x : Lane) (k : LaneId) (h : k ≠ l) : (s.setLane l x).lanes[k] = s.lanes[k] := by
  have : (l : Nat) ≠ (k : Nat) := fun e => h (Fin.ext e.symm)
  simp [State.setLane, this]

@[simp] theorem State.setRing_same (s : State) (i : RingId) (r : InRing) : (s.setRing i r).rings[(i : Nat)] = r := by
  simp [State.setRing]

theorem State.setRing_other (s : State) (i : RingId) (r : InRing) (k : RingId) (h : k ≠ i) : (s.setRing i r).rings[k] = s.rings[k] := by
  have : (i : Nat) ≠ (k : Nat) := fun e => h (Fin.ext e.symm)
  simp [State.setRing, this]

end Sys2Proof.Machine
end

