-- ==== Sys2Proof/Safety.lean ====
section
/-! DEFINITION. The terms in which claims are made: what a pair still owes, the fate of a completion, and the laws that
the manual states of every state the part can be in. -/

namespace Sys2Proof.Machine

/-! ### Outcomes -/

/-- The completions that a pair owes, in the order in which they will be written (R146, R148). -/
def Pair.owed (q : Pair) : List Completion := q.writing.toList ++ q.handed

/-- The record whose write begins when a completion is handed to a pair that is writing none (R148). -/
def Pair.beginsWith (q : Pair) (c : Completion) : Output :=
  .dmaWrite (q.cqBase + BitVec.ofNat 64 (16 * q.cqTail))
    (completionBytes ((q.handed ++ [c]).headD c) q.cqPhase)

/-- `t` is `u` with one completion handed to its own pair, and nothing else changed (R146): it joins what the pair owes,
and its write begins if none is in progress. -/
def Handed (u t : State) (c : Completion) : Prop :=
  (∀ p : PairId, p ≠ c.ref.pair → t.pairs[p] = u.pairs[p]) ∧
  t.pairs[c.ref.pair].owed = u.pairs[c.ref.pair].owed ++ [c] ∧
  t.pairs[c.ref.pair] =
    { u.pairs[c.ref.pair] with
      writing := t.pairs[c.ref.pair].writing, handed := t.pairs[c.ref.pair].handed } ∧
  t.pairs[c.ref.pair].writing.isSome = true ∧
  t.outputs =
    (if u.pairs[c.ref.pair].writing.isSome then u.outputs else u.pairs[c.ref.pair].beginsWith c :: u.outputs) ∧
  t = { u with pairs := t.pairs, outputs := t.outputs }

/-- The state in which the owner of a held command acts: the holding place is empty (R145). -/
def State.taken (s : State) : State := { s with holding := none }

/-- Command `c` answers the held command `h` at once: it leads from `s` to `u` with one completion handed. -/
def Answers (c : Instr) (s u : State) (h : Held) (status : Status) (result : Reg) : Prop :=
  exec c s = .next (u.complete h.ref status result)

/-- From `s` to `t` these completions are handed, in this order: on each pair that serves, its own join what the pair owes
(R146). -/
def Hands (s t : State) (cs : List Completion) : Prop :=
  ∀ p : PairId, s.pairs[p].serves = true →
    t.pairs[p].owed = s.pairs[p].owed ++ cs.filter fun c => decide (c.ref.pair = p)

/-! ### Events of a step -/

/-- From `s` to `t` the Event Writer is offered `others`, which blocks other than the Health Monitor post, and `health`,
each in its order; how the two interleave is left open (R125, R157). -/
def Posts (s t : State) (others health : List Event) : Prop :=
  ∃ order : List Event, order.Perm (others ++ health) ∧ others.Sublist order ∧ health.Sublist order ∧
    t.ew = order.foldl (fun w e => w.offer s.sc.localTime e) s.ew

/-- The events of the Health Monitor. -/
def EventKind.isHealth (k : EventKind) : Prop := k = .health ∨ k = .entryFailed ∨ k = .matrixReport

/-- The HEALTH event of a step from `s` to `t` whose last evaluation left the level as `t` has it: one if the level has
changed, none if not (R129). -/
def healthChange (s t : State) : List Event :=
  if t.hm.degraded = s.hm.degraded then [] else [t.healthEvent s.hm.degraded]

/-- From `s` to `t` the health level is evaluated and nothing else of the Health Monitor changes: conditions and level of `t`
are those that its scores, trim state and lanes call for (R128, R129). -/
def Evaluated (s t : State) : Prop :=
  t.healthNow = t.hm ∧ t.hm.expected = s.hm.expected ∧ t.hm.matrixNumber = s.hm.matrixNumber ∧
  t.hm.nextId = s.hm.nextId ∧ t.hm.openRecord = s.hm.openRecord ∧ t.hm.closed = s.hm.closed

/-- The event record write that begins in a step from `s` to `t`: that of the oldest accepted record, if none was in progress
(R158). -/
def recordWrite (s t : State) : List Output :=
  if s.ew.queue = [] ∧ s.ew.stray = false then
    match t.ew.queue with
    | [] => []
    | r :: _ => [.dmaWrite (t.ew.base + BitVec.ofNat 64 (16 * r.position)) (eventBytes r)]
  else []

/-- LANE_STATE of lane `l` as it leaves the state it has in `s`, with the code of the cause (R82, section 11.3). -/
def laneStateEvent (s : State) (l : LaneId) (new : LaneState) (cause : Nat) : Event :=
  { kind := .laneState, subject := BitVec.ofNat 16 l.val, cycle := s.sc.cycleCount, time := s.sc.localTime,
    detail := pack [(new.code, 0), (s.lanes[l].state.code, 8), (cause, 16)] }

/-- QUEUE_FAULT of a pair (R151, section 11.3). -/
def queueFaultOf (s : State) (p : PairId) (cause : PairFault) : Event :=
  { kind := .queueFault, subject := BitVec.ofNat 16 p.val, cycle := s.sc.cycleCount, time := s.sc.localTime,
    detail := BitVec.ofNat 32 cause.code }

/-- SYNC_STATE from the state of `s`, in cycle `count`, with the code of the cause; none if the state stays (R112, section
11.3). -/
def syncEvents (s : State) (count : Nat) (new : SyncState) (cause : Nat) : List Event :=
  if new = s.sc.sync then []
  else [{ kind := .syncState, subject := 0xFFFF, cycle := count, time := s.sc.localTime,
          detail := pack [(new.code, 0), (s.sc.sync.code, 8), (cause, 16)] }]

/-- ROLE_CHANGE from the role of `s`, in cycle `count`, with the code of the cause (R104, section 11.3). -/
def roleEvent (s : State) (count : Nat) (new : Role) (cause : Nat) : Event :=
  { kind := .roleChange, subject := 0xFFFF, cycle := count, time := s.sc.localTime,
    detail := pack [(new.code, 0), (s.sc.role.code, 8), (cause, 16)] }

/-- TRIM_STATE from the trim state of `s`, in cycle `count`, with the trim as it then stands, signed (R119 to R121, section
11.3). -/
def trimEvent (s : State) (count : Nat) (new : TrimState) (trim : Int) : Event :=
  { kind := .trimState, subject := 0xFFFF, cycle := count, time := s.sc.localTime,
    detail := pack [(new.code, 0), (s.sc.trimState.code, 2), ((BitVec.ofInt 16 trim).toNat, 16)] }

/-- The trim state after the role of `s` has ceased to be LEADER, if it was: a FROZEN one returns to the state it kept
(R121). -/
def trimAfterLeading (s : State) : TrimState :=
  if s.sc.role = .leader ∧ s.sc.trimState = .frozen then s.sc.keptTrim else s.sc.trimState

/-- The events of a LEADER that becomes BACKUP: ROLE_CHANGE, and TRIM_STATE if its trim was FROZEN (R104, R121). -/
def stepDown (s : State) (count cause : Nat) : List Event :=
  if s.sc.role = .leader then
    roleEvent s count .backup cause ::
      if s.sc.trimState = .frozen then [trimEvent s count s.sc.keptTrim s.sc.trim] else []
  else []

/-! ### Records in host memory and frames on the wire (chapter 11) -/

/-- The field of `n` bytes at byte `i` of a record, least significant byte first. -/
def bytesField (b : List Byte) (i n : Nat) : Nat := ((List.range n).map fun j => (b.getD (i + j) 0).toNat * 256 ^ j).sum

/-- The cells are a station request: start pattern, kind, sequence number, out count, in count, out words, check over kind
to the last out word, and six end cells, each the inverse of the level before it (R63, R176, section 11.5). -/
def IsRequest (cells : List LineCell) (kind : Kind) (sequence : Byte) (words : List StationWord) (inCount : Nat) : Prop :=
  let n := 16 * words.length
  let bits := (cells.take (54 + n)).map Prod.snd
  cells.length = 60 + n ∧ (∀ c ∈ cells.take (54 + n), c.1 = !c.2) ∧
  frameField bits 0 16 = 0b1010101010101011 ∧ frameField bits 16 4 = kind.code ∧
  frameField bits 20 8 = sequence.toNat ∧ frameField bits 28 5 = words.length ∧ frameField bits 33 5 = inCount ∧
  (∀ j w, words[j]? = some w → frameField bits (38 + 16 * j) 16 = w.toNat) ∧
  frameField bits (38 + n) 16 = (checkOf ((bits.drop 16).take (22 + n))).toNat ∧
  (∀ j < 6, ∃ c, cells[53 + n + j]? = some c ∧ cells[54 + n + j]? = some (!c.2, !c.2))

/-- The bytes are the completion record of `c` (section 11.2). -/
def IsCompletionRecord (b : List Byte) (c : Completion) (phase : Bool) : Prop :=
  b.length = 16 ∧ bytesField b 0 2 = c.ref.tag.toNat ∧ bytesField b 2 1 = c.ref.pair.val ∧
  bytesField b 3 1 = c.status.code ∧ bytesField b 4 2 = c.ref.sqHead % 65536 ∧ bytesField b 6 2 = 0 ∧
  bytesField b 8 4 = c.result.toNat ∧ bytesField b 12 3 = 0 ∧ bytesField b 15 1 = if phase then 1 else 0

/-- The bytes are the event record of `r` (section 11.3). -/
def IsEventRecord (b : List Byte) (r : EventRecord) : Prop :=
  b.length = 16 ∧ bytesField b 0 1 = r.event.kind.code ∧ bytesField b 1 1 = r.event.cycle % 256 ∧
  bytesField b 2 2 = r.event.subject.toNat ∧ bytesField b 4 4 = r.event.time.toNat ∧
  bytesField b 8 4 = r.event.detail.toNat ∧ bytesField b 12 3 = 0 ∧ bytesField b 15 1 = if r.phase then 1 else 0

/-- The bytes from `i` on are the entry record of `e` (section 11.4). -/
def IsEntryRecord (b : List Byte) (i : Nat) (e : Entry) : Prop :=
  bytesField b i 1 = e.handle % 256 ∧ bytesField b (i + 1) 1 = e.kind.code ∧ bytesField b (i + 2) 1 = e.lane.val ∧
  bytesField b (i + 3) 1 = e.period % 256 ∧ bytesField b (i + 4) 1 = e.phase % 256 ∧
  bytesField b (i + 5) 1 = e.outCount % 256 ∧ bytesField b (i + 6) 1 = e.inCount % 256 ∧
  bytesField b (i + 7) 1 = e.mode.code ∧ bytesField b (i + 8) 1 = e.ring.val ∧ bytesField b (i + 9) 1 = e.notify.code ∧
  bytesField b (i + 10) 2 = e.mark % 65536 ∧ bytesField b (i + 12) 2 = e.window % 65536 ∧ bytesField b (i + 14) 2 = 0

/-! ### Exchanges -/

/-- The data bits of a station's reply between the start pattern and the first end cell (R64, section 11.5). -/
def replyFrame (echo : Byte) (status : Nat) (words : List StationWord) : List Bool :=
  let body := msbBits 8 echo.toNat ++ msbBits 3 status ++ msbBits 5 words.length ++
    words.flatMap fun w => msbBits 16 w.toNat
  body ++ msbBits 16 (checkOf body).toNat

/-- The cells of a station's reply on the line: start pattern, fields and four end cells (section 11.5, R176). -/
def replyCells (echo : Byte) (status : Nat) (words : List StationWord) : List LineCell :=
  lineCells (lanePattern ++ replyFrame echo status words) 4

/-- The event `c` concludes the exchange `x` in flight on lane `l` with judgment `j` and the words received: its reply is
complete (R67), its deadline has passed (R68), or its reply has ended without an end pattern (R64). -/
def Concludes (c : Instr) (s : State) (l : LaneId) (x : Exchange) (j : Verdict) (words : List StationWord) : Prop :=
  s.serving = true ∧ s.lanes[l].inFlight = some x ∧ x.settling = false ∧
    ((∃ cells bits, c = .replyComplete l cells ∧ replyOf cells = some bits ∧ s.lanes[l].receiver = .reply ∧
        j = judgeReply x.sequence x.inCount bits ∧ words = replyWords bits) ∨
      (c = .exchangeDeadline l ∧ s.deadlinePassed x.deadline = true ∧ j = .noReply ∧ words = []) ∨
      (∃ cells, c = .lineIdleTimeout l cells ∧ replyOf cells = none ∧ s.lanes[l].receiver = .reply ∧ j = .badCheck ∧
        words = []))

/-- The receiver of lane `l` once event `c` has concluded its exchange: a reply still arriving at the deadline is cut off,
and a reply that has ended leaves it free (R67, R68). -/
def receiverAfter (c : Instr) (s : State) (l : LaneId) : Receiver :=
  if c = .exchangeDeadline l then (if s.lanes[l].receiver = .reply then .cutOff else s.lanes[l].receiver) else .idle

/-- The consecutive-failure count after the judgment of a scheduled or host exchange: it follows the judgments of a READY
lane alone (R70, R75). -/
def failuresAfter (x : Lane) (j : Verdict) : Nat :=
  if x.state ≠ .ready then x.failures
  else if j = .noReply ∨ j = .badCheck ∨ j = .badReply then x.failures + 1
  else 0

/-- Every lane but `l` is as it was. -/
def OtherLanesKept (s t : State) (l : LaneId) : Prop := ∀ m : LaneId, m ≠ l → t.lanes[m] = s.lanes[m]

/-! ### A settled outcome (R37) -/

/-- A matrix record with one more outcome counted, and with one exchange in flight fewer if the exchange had been started
(R132). -/
def MatrixRecord.withOutcome (m : MatrixRecord) (o : Verdict) (started : Bool) : MatrixRecord :=
  let more := fun n : Nat => if n < 65535 then n + 1 else 65535
  { m with
    done := if o = .done then more m.done else m.done,
    failed := if o ∈ [.noReply, .badCheck, .badReply, .stationBusy, .stationFault, .laneNotReady, .laneBusy]
      then more m.failed else m.failed,
    skipped := if o ∈ [.noValues, .noRoom, .ringFault, .disabled] then more m.skipped else m.skipped,
    inFlight := if started then m.inFlight - 1 else m.inFlight }

/-- The closed records are `records` without those that have no exchange in flight, which are posted and discarded (R134). -/
def readyRecords (records : List MatrixRecord) : List Event :=
  (records.filter fun m => decide (m.inFlight = 0)).map MatrixRecord.report

/-- The active entry whose record the settled outcome of `f` reaches: the one of its handle, if the firing is still
attached to it (R21). -/
def reachedBy (s : State) (f : Firing) : List ActiveEntry :=
  s.active.filter fun a => decide (f.attached = true ∧ a.entry.handle = f.handle)

/-- The record that the tag of `f` names, with the outcome counted (R132). -/
def namedBy (f : Firing) (o : Verdict) (started : Bool) (m : MatrixRecord) : MatrixRecord :=
  if f.tag = some m.id then m.withOutcome o started else m

/-- The ENTRY_OUTCOME of a settled outcome, where notify asks (R38). -/
def outcomeEvents (f : Firing) (o : Verdict) (slot : Nat) : List Event :=
  if f.notify = .all ∨ (f.notify = .failures ∧ o ≠ .done ∧ o ≠ .disabled) then
    [{ kind := .entryOutcome, subject := BitVec.ofNat 16 f.handle, cycle := f.cycle, time := f.start,
       detail := pack [(o.code, 0), (f.lane.val, 8), (slot, 16)] }]
  else []

/-- What the Health Monitor posts as an outcome is settled from `s` to `t`: ENTRY_FAILED, HEALTH and MATRIX_REPORTs, each
where it is due (R125, R129, R134). -/
def settledHealth (s t : State) (f : Firing) (o : Verdict) (started : Bool) : List Event :=
  let failed : List Event :=
    ((reachedBy s f).filter fun a => decide (a.run.disabled = false ∧ (a.run.scored o).score = 15)).map fun _ =>
      { kind := .entryFailed, subject := BitVec.ofNat 16 f.handle, cycle := f.cycle, time := f.start,
        detail := pack [(o.code, 0), (f.lane.val, 8)] }
  failed ++ healthChange s t ++ readyRecords (s.hm.closed.map (namedBy f o started))

/-- From `s` to `t` the outcome `o` of the firing `f` is settled, but for the events (R37): scored on the record its
handle holds (R21, R124, R125), with its level evaluated (R129); counted in the record its tag names (R132), closed
records left without exchange being discarded (R134); given to the value slots if the firing took a set, an ON_WIRE
deferred STAGE completing (R48, R52). -/
def Settled (s t : State) (f : Firing) (o : Verdict) (started : Bool) : Prop :=
  let tookSet := started = true ∧ (f.kind = .send ∨ f.kind = .swap)
  t.active = (s.active.map fun a =>
    if f.attached = true ∧ a.entry.handle = f.handle then
      { a with run := if tookSet then (a.run.scored o).settled a.entry.mode else a.run.scored o }
    else a) ∧
  t.hm.openRecord = s.hm.openRecord.map (namedBy f o started) ∧
  t.hm.closed = ((s.hm.closed.map (namedBy f o started)).filter fun m => decide (m.inFlight ≠ 0)) ∧
  t.hm.expected = s.hm.expected ∧ t.hm.matrixNumber = s.hm.matrixNumber ∧ t.hm.nextId = s.hm.nextId ∧
  (reachedBy s f ≠ [] → t.healthNow = t.hm) ∧
  (reachedBy s f = [] → t.hm = { s.hm with openRecord := t.hm.openRecord, closed := t.hm.closed }) ∧
  Hands s t ((if tookSet then reachedBy s f else []).filterMap fun a =>
    a.run.stage.bind fun d =>
      if d.onWire then
        some { ref := d.ref, status := if o = .done then .ok else .exchangeFailed,
               result := pack [(o.code, 0), (f.cycle, 8)] }
      else none)

/-- From `s` to `t` the outcome `o` of the firing `f` is settled and handed on (R37), its events included: ENTRY_OUTCOME
after the events `first` (R38). -/
def Settles (s t : State) (f : Firing) (o : Verdict) (slot : Nat) (started : Bool) (first : List Event) : Prop :=
  Settled s t f o started ∧ Posts s t (first ++ outcomeEvents f o slot) (settledHealth s t f o started)

/-- From `s` to `t` the outcome `o` of a started firing is settled, and then its lane changes its state, which hands `last`
and posts `change` (R37, R61, R71). `u` stands between the two: the level is evaluated for each (R129). -/
def SettlesAndChanges (s t : State) (f : Firing) (o : Verdict) (change : Event) (last : List Completion) : Prop :=
  ∃ u : State, Settled s u f o true ∧ u.sc = s.sc ∧ (∀ l : LaneId, u.lanes[l].state = s.lanes[l].state) ∧
    t.active = u.active ∧ t.hm = ({ t with hm := u.hm } : State).healthNow ∧ Hands u t last ∧
    (∀ p : PairId, u.pairs[p].serves = s.pairs[p].serves) ∧
    Posts s t (outcomeEvents f o 0 ++ [change]) (settledHealth s u f o true ++ healthChange u t)

/-! ### The swap (R19, R20) -/

/-- The EDIT COMMIT that is pending, if one is. -/
def State.pendingCommit (s : State) : Option CmdRef := s.session.bind Session.commit

/-- An old entry passes its runtime record to an entry of the new table (R20). -/
def passesOn (old : ActiveEntry) (e : Entry) : Bool :=
  decide (old.entry.handle = e.handle) && old.entry.sameIdentity e

/-- The edit table of `s` has become the active table of `t`, each entry with the record of the old entry of its handle
and identity or a fresh one; the session is closed, and E is counted anew under the plan `p` (R5, R19, R20, R130). -/
def Swapped (s t : State) (p : Plan) : Prop :=
  t.activeEntries = s.edit ∧ t.edit = [] ∧ t.session = none ∧
  (∀ a ∈ t.active,
    (∃ o ∈ s.active, passesOn o a.entry = true ∧ a.run = o.run) ∨
    ((∀ o ∈ s.active, passesOn o a.entry = false) ∧ a.run = Runtime.fresh)) ∧
  t.hm.expected = ((s.edit.filter fun e => decide (e.kind ≠ .marker)).map fun e => p.matrix / e.period).sum

/-- Tables, session and E are as they were. -/
def NotSwapped (s t : State) : Prop :=
  t.active = s.active ∧ t.edit = s.edit ∧ t.session = s.session ∧ t.hm.expected = s.hm.expected

/-- The completions of a swap: ENTRY_REMOVED for the deferred STAGEs of records that are not carried over, in the old
table's order, then the OK of EDIT COMMIT with the entries and the records carried (R19, R20, R54, section 11.2). -/
def swapCompletions (s : State) (commit : CmdRef) : List Completion :=
  ((s.active.filter fun a => !s.edit.any (passesOn a)).filterMap fun a =>
    a.run.stage.map fun d => ({ ref := d.ref, status := .entryRemoved, result := 0 } : Completion)) ++
  [{ ref := commit, status := .ok,
     result := pack [(s.edit.length, 0), ((s.edit.filter fun e => s.active.any fun a => passesOn a e).length, 16)] }]

/-- The exchange `x` in flight once the swap of `s` has been performed: a scheduled firing that reaches the record of its handle
goes on reaching it if that record is carried over, and reaches no record any more if not; all else of the exchange stays,
and a host exchange or a probe stays whole (R20, R21). -/
def afterSwap (s : State) (x : Exchange) : Exchange :=
  { x with
    source :=
      match x.source with
      | .scheduled f =>
        .scheduled { f with
          attached := f.attached && s.active.any fun a => decide (a.entry.handle = f.handle) && s.edit.any (passesOn a) }
      | other => other }

/-! ### Taking an edge (R101, R112, R116) -/

/-- The event `c` takes the edge `e` under the plan `p`: a valid frame of another unit has ended (R101), or the unit's own
beacon has been sent whole (`own`). -/
def TakesEdge (c : Instr) (s : State) (p : Plan) (own : Bool) (e : Edge) : Prop :=
  s.serving = true ∧ s.sc.plan = some p ∧ s.sc.sync ≠ .off ∧
  ((own = false ∧ ∃ bits, c = .beaconReceived bits ∧ s.sc.receiving = some e.instant ∧
      beaconFault p.matrix p.bm bits = none ∧ e.count = beaconCount bits ∧ e.restart = beaconRestart bits ∧
      e.rank = beaconRank bits ∧ e.unit = beaconUnit bits) ∨
    (own = true ∧ ∃ b, c = .ownBeaconEnd ∧ s.sc.sending = some b ∧ 610 ≤ b.clocks ∧ b.counts = true ∧
      e = { instant := b.instant, count := b.count, restart := b.restart, rank := p.rank, unit := p.unit }))

/-- The waiting host exchanges of `s` whose fourth give-up this take-up of a cycle is, lane by lane (R77). -/
def State.fourthGiveUps (s : State) : List CmdRef :=
  (List.finRange 8).flatMap fun l : LaneId =>
    (s.lanes[l].queue.filter fun q => decide (3 ≤ q.giveUps)).map fun q => q.exchange.ref

/-- From `s` to `t` watch expiry is taken, but for its events (R111, R114): UNSYNCED with a new free-run episode, a LEADER
BACKUP with a FROZEN trim state returned, the hold cleared with a waiting RESIGN completing NO_TAKEOVER, no cycle in hand,
the open matrix record PARTIAL, and the level evaluated (R104, R121, R129, R133). -/
def WatchExpires (s t : State) : Prop :=
  t.sc.sync = .unsynced ∧ t.sc.cycleTime = 0 ∧ t.sc.activity = false ∧ t.sc.firstFreeRun = true ∧
  t.sc.rejectedInRun = 0 ∧ t.sc.receiving = none ∧ t.sc.cycleCount = s.sc.cycleCount ∧ t.sc.localTime = s.sc.localTime ∧
  t.sc.role = (if s.sc.role = .leader then .backup else s.sc.role) ∧ t.sc.trim = s.sc.trim ∧
  t.sc.trimState = trimAfterLeading s ∧ t.sc.hold = false ∧
  t.sc.resign = (if s.sc.hold then none else s.sc.resign) ∧
  Hands s t (if s.sc.hold then s.sc.resign.toList.map fun ref => ⟨ref, .noTakeover, 0⟩ else []) ∧
  t.cycle = none ∧ t.hm.openRecord = s.hm.openRecord.map (fun m => { m with isPartial := true }) ∧
  t.hm.closed = s.hm.closed ∧ t.hm.expected = s.hm.expected ∧ t.hm.matrixNumber = s.hm.matrixNumber ∧
  t.healthNow = t.hm ∧ t.active = s.active ∧ t.edit = s.edit ∧ t.session = s.session ∧ t.lanes = s.lanes ∧
  t.rings = s.rings ∧ t.slotQueue = s.slotQueue ∧ t.dev = s.dev

/-! ### Laws of every reachable state -/

/-- R3: at most 256 entries, in strictly increasing key order, no two with one handle. -/
def tableLaw (table : List Entry) : Prop :=
  table.length ≤ 256 ∧ table.Pairwise (fun a b => a.before b = true) ∧ (table.map Entry.handle).Nodup

/-- R3 and R5: both tables keep the law, and the edit table is empty while the session is closed. -/
def State.tablesLaw (s : State) : Prop :=
  tableLaw s.activeEntries ∧ tableLaw s.edit ∧ (s.session = none → s.edit = [])

/-- R125: the score lies in 0 to 15, and the entry is disabled exactly when it is 15. -/
def Runtime.scoreLaw (r : Runtime) : Prop := r.score ≤ 15 ∧ (r.disabled = true ↔ r.score = 15)

/-- R125, for every entry of the active table. -/
def State.scoresLaw (s : State) : Prop := ∀ a ∈ s.active, a.run.scoreLaw

/-- R134: a closed record is kept only while it has an exchange in flight. -/
def State.recordsLaw (s : State) : Prop := ∀ m ∈ s.hm.closed, m.inFlight ≠ 0

/-- R25, R41, R98, R112, R165, R168: ENABLE is set exactly while the device is other than OFF; the sync state is other
than OFF exactly while the device is RUNNING; a plan is then set; a cycle is in hand only while LOCKED; and what the STU
counted so far leave over is less than a clock. -/
def State.cycleLaw (s : State) : Prop :=
  (s.enable = true ↔ s.dev ≠ .off) ∧ (s.sc.sync ≠ .off ↔ s.dev = .running) ∧ (s.dev = .running → s.sc.plan ≠ none) ∧
    (s.cycle ≠ none → s.sc.sync = .locked) ∧ s.sc.stuCarry < 1000000

/-- The plan allows the unit to lead. -/
def TimeSync.mayLead (t : TimeSync) : Prop := ∃ p, t.plan = some p ∧ p.candidate = true

/-- R100, R104: a unit whose plan does not make it a candidate is a FOLLOWER, and only a candidate in a sync state has a
beacon of its own whose end counts. -/
def State.roleLaw (s : State) : Prop :=
  (s.sc.role = .follower ∨ s.sc.mayLead) ∧
    (∀ b, s.sc.sending = some b → b.counts = true → s.sc.mayLead ∧ s.sc.sync ≠ .off)

/-- R154, R157, R159: the ring's depth is at least 16, its positions lie in it, what is not written yet is unconsumed,
and at most depth - 2 records are unconsumed. -/
def EventWriter.ringLaw (w : EventWriter) : Prop :=
  w.state = .active →
    16 ≤ w.depth ∧ w.tail < w.depth ∧ w.head < w.depth ∧ w.queue.length ≤ w.occupancy ∧ w.occupancy + 2 ≤ w.depth

end Sys2Proof.Machine
end

