-- ==== Sys2Proof/Laws/Ops.lean ====
section
/-! SUPPORT. One lemma per shared operation that says once what it can change (its `shape`), and what follows from it
for the fields it leaves alone. -/

namespace Sys2Proof.Machine

/-! ### Running a held command (R145) -/

/-- A held command is executed by its owner, in the state whose holding place is empty. -/
theorem State.runCommand_held {s : State} {opcode : Nat} {h : Held} (hh : s.heldCommand opcode = some h)
    (owner : CommandRecord → CmdRef → State → State) : s.runCommand opcode owner = owner h.record h.ref s.taken := by
  unfold State.runCommand
  rw [hh]
  rfl

/-- A command that is not held changes nothing. -/
theorem State.runCommand_none {s : State} {opcode : Nat} (hh : s.heldCommand opcode = none)
    (owner : CommandRecord → CmdRef → State → State) : s.runCommand opcode owner = s := by
  unfold State.runCommand
  rw [hh]

/-! ### Completions -/

/-- Retiring commands touches the pairs alone. -/
theorem State.retire_shape (s : State) (p : PairId) (n : Nat) : ∃ ps, s.retire p n = { s with pairs := ps } :=
  ⟨_, rfl⟩

/-- Handing a completion touches the pairs and the outputs alone. -/
theorem State.complete_shape (s : State) (ref : CmdRef) (st : Status) (r : Reg) :
    ∃ ps os, s.complete ref st r = { s with pairs := ps, outputs := os } := by
  unfold State.complete
  split
  · exact ⟨_, _, rfl⟩
  · exact ⟨_, s.outputs, rfl⟩

/-- Handing several completions touches the pairs and the outputs alone. -/
theorem State.completeAll_shape (refs : List CmdRef) (st : Status) (r : Reg) (s : State) :
    ∃ ps os, s.completeAll refs st r = { s with pairs := ps, outputs := os } := by
  unfold State.completeAll
  induction refs generalizing s with
  | nil => exact ⟨s.pairs, s.outputs, rfl⟩
  | cons c cs ih =>
    obtain ⟨ps, os, h⟩ := State.complete_shape s c st r
    obtain ⟨ps', os', h'⟩ := ih (s.complete c st r)
    exact ⟨ps', os', by rw [List.foldl_cons, h', h]⟩

/-! ### Events -/

/-- Posting touches the Event Writer and the outputs alone. -/
theorem State.postAll_shape (s : State) (es : List Event) :
    ∃ w os, s.postAll es = { s with ew := w, outputs := os } := by
  unfold State.postAll
  split
  · exact ⟨s.ew, s.outputs, rfl⟩
  · exact ⟨_, _, rfl⟩

/-- The end of a step touches the Event Writer, the outputs and the counter of free values alone. -/
theorem Work.finish_shape (w : Work) :
    ∃ e os n, w.finish = { w.s with ew := e, outputs := os, free := n } := by
  unfold Work.finish
  split
  · obtain ⟨e, os, h⟩ := State.postAll_shape w.s w.others
    exact ⟨e, os, w.s.free, h⟩
  · split
    · obtain ⟨e, os, h⟩ := State.postAll_shape w.s w.health
      exact ⟨e, os, w.s.free, h⟩
    · obtain ⟨e, os, h⟩ := State.postAll_shape
        { w.s with free := w.s.free + w.others.length + w.health.length } (merge w.others w.health w.s.free)
      exact ⟨e, os, _, h⟩

/-! ### A handed completion, whole -/

/-- Beginning a write keeps what the pair owes (R148). -/
@[simp] theorem Pair.owed_begun (q : Pair) : q.begun.owed = q.owed := by
  unfold Pair.begun
  split <;> simp_all [Pair.owed]

/-- A pair with a completion handed owes it last (R146). -/
@[simp] theorem Pair.owed_handing (q : Pair) (c : Completion) : (q.handing c).owed = q.owed ++ [c] := by
  simp [Pair.owed, Pair.handing]

/-- On a pair that serves, the completion is handed (R146). -/
theorem State.complete_serves (s : State) (ref : CmdRef) (st : Status) (r : Reg)
    (h : s.pairs[ref.pair].serves = true) :
    s.complete ref st r = s.beginCompletion ref.pair (s.pairs[ref.pair].handing ⟨ref, st, r⟩) := if_pos h

/-- On a pair that does not serve, the command is retired without a record (R146). -/
theorem State.complete_retired (s : State) (ref : CmdRef) (st : Status) (r : Reg)
    (h : s.pairs[ref.pair].serves = false) : s.complete ref st r = s.retire ref.pair 1 := if_neg (by rw [h]; exact Bool.false_ne_true)

/-! ### The events of a step, whole (R125, R157) -/

/-- Merging what follows `x`: the interleaving keeps every event, and each of the two orders. -/
theorem mergeAfter_shape (x : Event) (xs : List Event) (rest : List Event → Nat → List Event)
    (h : ∀ ys n, (rest ys n).Perm (xs ++ ys) ∧ xs.Sublist (rest ys n) ∧ ys.Sublist (rest ys n)) (ys : List Event) (n : Nat) :
    (mergeAfter x rest ys n).Perm (x :: xs ++ ys) ∧ (x :: xs).Sublist (mergeAfter x rest ys n) ∧
      ys.Sublist (mergeAfter x rest ys n) := by
  induction ys generalizing n with
  | nil =>
    obtain ⟨hp, hs, _⟩ := h [] n
    exact ⟨hp.cons x, hs.cons_cons x, List.nil_sublist _⟩
  | cons y ys ih =>
    unfold mergeAfter
    split
    · obtain ⟨hp, hs, ht⟩ := h (y :: ys) (n + 1)
      exact ⟨hp.cons x, hs.cons_cons x, ht.cons x⟩
    · obtain ⟨hp, hs, ht⟩ := ih (n + 1)
      exact ⟨(hp.cons y).trans List.perm_middle.symm, hs.cons y, ht.cons_cons y⟩

/-- An interleaving keeps every event, and each of the two orders. -/
theorem merge_shape (xs ys : List Event) (n : Nat) :
    (merge xs ys n).Perm (xs ++ ys) ∧ xs.Sublist (merge xs ys n) ∧ ys.Sublist (merge xs ys n) := by
  induction xs generalizing ys n with
  | nil => exact ⟨.refl _, List.nil_sublist _, .refl _⟩
  | cons x xs ih => exact mergeAfter_shape x xs (merge xs) (fun ys n => ih ys n) ys n

/-- Outside FATAL the events of a list are offered to the Event Writer, in order. -/
theorem State.postAll_ew (s : State) (es : List Event) (h : s.dev ≠ .fatal) :
    (s.postAll es).ew = es.foldl (fun w e => w.offer s.sc.localTime e) s.ew := by
  unfold State.postAll
  rw [if_neg h]

/-- The end of a step offers its events in an interleaving of its two sequences. -/
theorem Work.finish_posts (w : Work) (h : w.s.dev ≠ .fatal) :
    ∃ order : List Event, order.Perm (w.others ++ w.health) ∧ w.others.Sublist order ∧ w.health.Sublist order ∧
      w.finish.ew = order.foldl (fun e x => e.offer w.s.sc.localTime x) w.s.ew := by
  unfold Work.finish
  split
  · rename_i hh
    rw [List.isEmpty_iff] at hh
    exact ⟨w.others, by simp [hh], .refl _, by simp [hh], State.postAll_ew _ _ h⟩
  · split
    · rename_i ho
      rw [List.isEmpty_iff] at ho
      exact ⟨w.health, by simp [ho], by simp [ho], .refl _, State.postAll_ew _ _ h⟩
    · obtain ⟨hp, hs, ht⟩ := merge_shape w.others w.health w.s.free
      exact ⟨_, hp, hs, ht, State.postAll_ew _ _ h⟩

/-- A step in hand that has kept the Event Writer, the local time and a device outside FATAL posts what it has gathered. -/
theorem Work.finish_Posts (s : State) (w : Work) (hd : w.s.dev ≠ .fatal) (he : w.s.ew = s.ew)
    (ht : w.s.sc.localTime = s.sc.localTime) : Posts s w.finish w.others w.health := by
  obtain ⟨order, hp, hs, hh, h⟩ := w.finish_posts hd
  exact ⟨order, hp, hs, hh, by rw [h, he, ht]⟩

/-! ### Completions handed in a step (R146) -/

/-- Handing nothing. -/
theorem Hands.refl {s t : State} (h : t.pairs = s.pairs) : Hands s t [] := fun p _ => by simp [h]

/-- A completion handed hands that completion. -/
theorem State.complete_Hands (s : State) (ref : CmdRef) (st : Status) (r : Reg) :
    Hands s (s.complete ref st r) [⟨ref, st, r⟩] := by
  intro p hp
  unfold State.complete
  split
  · by_cases h : ref.pair = p
    · subst h
      simp [State.beginCompletion]
    · simp [State.beginCompletion, h, Fin.val_inj]
  · rename_i hn
    have h : ref.pair ≠ p := by rintro rfl; exact hn hp
    simp [State.retire, State.setPair, h, Fin.val_inj]

/-- Handing a completion leaves each pair serving or not, as it was. -/
theorem State.complete_keeps_serves (s : State) (ref : CmdRef) (st : Status) (r : Reg) (p : PairId) :
    (s.complete ref st r).pairs[p].serves = s.pairs[p].serves := by
  by_cases h : ref.pair = p
  · subst h
    unfold State.complete
    split
    · simp only [State.beginCompletion, Fin.getElem_fin, Vector.getElem_set_self]
      unfold Pair.begun
      split <;> rfl
    · simp [State.retire, State.setPair, Pair.retired, Pair.serves]
  · unfold State.complete
    split <;> simp [State.beginCompletion, State.retire, State.setPair, h, Fin.val_inj]

/-- What two steps hand, one after the other. -/
theorem Hands.trans {s t u : State} {cs ds : List Completion} (h : Hands s t cs) (k : Hands t u ds)
    (hs : ∀ p : PairId, t.pairs[p].serves = s.pairs[p].serves) : Hands s u (cs ++ ds) := fun p hp => by
  rw [k p ((hs p).trans hp), h p hp, List.filter_append, List.append_assoc]

/-- Several completions of one status, handed in order. -/
theorem State.completeAll_Hands (refs : List CmdRef) (st : Status) (r : Reg) (s : State) :
    Hands s (s.completeAll refs st r) (refs.map fun ref => ⟨ref, st, r⟩) ∧
      ∀ p : PairId, (s.completeAll refs st r).pairs[p].serves = s.pairs[p].serves := by
  induction refs generalizing s with
  | nil => exact ⟨.refl rfl, fun _ => rfl⟩
  | cons c cs ih =>
    obtain ⟨h, k⟩ := ih (s.complete c st r)
    exact ⟨(s.complete_Hands c st r).trans h (s.complete_keeps_serves c st r),
      fun p => (k p).trans (s.complete_keeps_serves c st r p)⟩

/-! ### What shared operations leave alone, field by field -/

/-- Handing a completion leaves every field but the pairs and the outputs. -/
@[simp] theorem State.complete_keeps (s : State) (c : CmdRef) (st : Status) (r : Reg) :
    (s.complete c st r).dev = s.dev ∧ (s.complete c st r).enable = s.enable ∧
    (s.complete c st r).adminSq = s.adminSq ∧ (s.complete c st r).adminCq = s.adminCq ∧
    (s.complete c st r).adminDepth = s.adminDepth ∧ (s.complete c st r).fatalCause = s.fatalCause ∧
    (s.complete c st r).adminFault = s.adminFault ∧ (s.complete c st r).haltCause = s.haltCause ∧
    (s.complete c st r).pointer = s.pointer ∧ (s.complete c st r).holding = s.holding ∧
    (s.complete c st r).fetching = s.fetching ∧ (s.complete c st r).executing = s.executing ∧
    (s.complete c st r).buffers = s.buffers ∧ (s.complete c st r).active = s.active ∧
    (s.complete c st r).edit = s.edit ∧ (s.complete c st r).session = s.session ∧
    (s.complete c st r).cycle = s.cycle ∧ (s.complete c st r).lanes = s.lanes ∧ (s.complete c st r).rings = s.rings ∧
    (s.complete c st r).slotQueue = s.slotQueue ∧ (s.complete c st r).slotWriting = s.slotWriting ∧
    (s.complete c st r).sc = s.sc ∧ (s.complete c st r).hm = s.hm ∧ (s.complete c st r).ew = s.ew ∧
    (s.complete c st r).free = s.free ∧ (s.complete c st r).pending = s.pending := by
  obtain ⟨ps, os, h⟩ := State.complete_shape s c st r
  and_intros <;> rw [h]

/-- Handing several completions leaves every field but the pairs and the outputs. -/
@[simp] theorem State.completeAll_keeps (s : State) (cs : List CmdRef) (st : Status) (r : Reg) :
    (s.completeAll cs st r).dev = s.dev ∧ (s.completeAll cs st r).enable = s.enable ∧
    (s.completeAll cs st r).adminSq = s.adminSq ∧ (s.completeAll cs st r).adminCq = s.adminCq ∧
    (s.completeAll cs st r).adminDepth = s.adminDepth ∧ (s.completeAll cs st r).fatalCause = s.fatalCause ∧
    (s.completeAll cs st r).adminFault = s.adminFault ∧ (s.completeAll cs st r).haltCause = s.haltCause ∧
    (s.completeAll cs st r).pointer = s.pointer ∧ (s.completeAll cs st r).holding = s.holding ∧
    (s.completeAll cs st r).fetching = s.fetching ∧ (s.completeAll cs st r).executing = s.executing ∧
    (s.completeAll cs st r).buffers = s.buffers ∧ (s.completeAll cs st r).active = s.active ∧
    (s.completeAll cs st r).edit = s.edit ∧ (s.completeAll cs st r).session = s.session ∧
    (s.completeAll cs st r).cycle = s.cycle ∧ (s.completeAll cs st r).lanes = s.lanes ∧
    (s.completeAll cs st r).rings = s.rings ∧ (s.completeAll cs st r).slotQueue = s.slotQueue ∧
    (s.completeAll cs st r).slotWriting = s.slotWriting ∧ (s.completeAll cs st r).sc = s.sc ∧
    (s.completeAll cs st r).hm = s.hm ∧ (s.completeAll cs st r).ew = s.ew ∧ (s.completeAll cs st r).free = s.free ∧
    (s.completeAll cs st r).pending = s.pending := by
  obtain ⟨ps, os, h⟩ := State.completeAll_shape cs st r s
  and_intros <;> rw [h]

/-- Retiring commands leaves every field but the pairs. -/
@[simp] theorem State.retire_keeps (s : State) (p : PairId) (n : Nat) :
    (s.retire p n).dev = s.dev ∧ (s.retire p n).enable = s.enable ∧ (s.retire p n).adminSq = s.adminSq ∧
    (s.retire p n).adminCq = s.adminCq ∧ (s.retire p n).adminDepth = s.adminDepth ∧
    (s.retire p n).fatalCause = s.fatalCause ∧ (s.retire p n).adminFault = s.adminFault ∧
    (s.retire p n).haltCause = s.haltCause ∧ (s.retire p n).pointer = s.pointer ∧
    (s.retire p n).holding = s.holding ∧ (s.retire p n).fetching = s.fetching ∧
    (s.retire p n).executing = s.executing ∧ (s.retire p n).buffers = s.buffers ∧ (s.retire p n).active = s.active ∧
    (s.retire p n).edit = s.edit ∧ (s.retire p n).session = s.session ∧ (s.retire p n).cycle = s.cycle ∧
    (s.retire p n).lanes = s.lanes ∧ (s.retire p n).rings = s.rings ∧ (s.retire p n).slotQueue = s.slotQueue ∧
    (s.retire p n).slotWriting = s.slotWriting ∧ (s.retire p n).sc = s.sc ∧ (s.retire p n).hm = s.hm ∧
    (s.retire p n).ew = s.ew ∧ (s.retire p n).outputs = s.outputs ∧ (s.retire p n).free = s.free ∧
    (s.retire p n).pending = s.pending := by
  obtain ⟨ps, h⟩ := State.retire_shape s p n
  and_intros <;> rw [h]

/-- Posting events leaves every field but the Event Writer and the outputs. -/
@[simp] theorem State.postAll_keeps (s : State) (es : List Event) :
    (s.postAll es).dev = s.dev ∧ (s.postAll es).enable = s.enable ∧ (s.postAll es).adminSq = s.adminSq ∧
    (s.postAll es).adminCq = s.adminCq ∧ (s.postAll es).adminDepth = s.adminDepth ∧
    (s.postAll es).fatalCause = s.fatalCause ∧ (s.postAll es).adminFault = s.adminFault ∧
    (s.postAll es).haltCause = s.haltCause ∧ (s.postAll es).pairs = s.pairs ∧ (s.postAll es).pointer = s.pointer ∧
    (s.postAll es).holding = s.holding ∧ (s.postAll es).fetching = s.fetching ∧
    (s.postAll es).executing = s.executing ∧ (s.postAll es).buffers = s.buffers ∧ (s.postAll es).active = s.active ∧
    (s.postAll es).edit = s.edit ∧ (s.postAll es).session = s.session ∧ (s.postAll es).cycle = s.cycle ∧
    (s.postAll es).lanes = s.lanes ∧ (s.postAll es).rings = s.rings ∧ (s.postAll es).slotQueue = s.slotQueue ∧
    (s.postAll es).slotWriting = s.slotWriting ∧ (s.postAll es).sc = s.sc ∧ (s.postAll es).hm = s.hm ∧
    (s.postAll es).free = s.free ∧ (s.postAll es).pending = s.pending := by
  obtain ⟨w, os, h⟩ := State.postAll_shape s es
  and_intros <;> rw [h]

/-- The end of a step leaves every field but the Event Writer, the outputs and the counter of free values. -/
@[simp] theorem Work.finish_keeps (w : Work) :
    (w.finish).dev = w.s.dev ∧ (w.finish).enable = w.s.enable ∧ (w.finish).adminSq = w.s.adminSq ∧
    (w.finish).adminCq = w.s.adminCq ∧ (w.finish).adminDepth = w.s.adminDepth ∧
    (w.finish).fatalCause = w.s.fatalCause ∧ (w.finish).adminFault = w.s.adminFault ∧
    (w.finish).haltCause = w.s.haltCause ∧ (w.finish).pairs = w.s.pairs ∧ (w.finish).pointer = w.s.pointer ∧
    (w.finish).holding = w.s.holding ∧ (w.finish).fetching = w.s.fetching ∧ (w.finish).executing = w.s.executing ∧
    (w.finish).buffers = w.s.buffers ∧ (w.finish).active = w.s.active ∧ (w.finish).edit = w.s.edit ∧
    (w.finish).session = w.s.session ∧ (w.finish).cycle = w.s.cycle ∧ (w.finish).lanes = w.s.lanes ∧
    (w.finish).rings = w.s.rings ∧ (w.finish).slotQueue = w.s.slotQueue ∧ (w.finish).slotWriting = w.s.slotWriting ∧
    (w.finish).sc = w.s.sc ∧ (w.finish).hm = w.s.hm ∧ (w.finish).pending = w.s.pending := by
  obtain ⟨e, os, n, h⟩ := Work.finish_shape w
  and_intros <;> rw [h]

end Sys2Proof.Machine
end

