-- ==== Sys2Proof/Laws/EventRing.lean ====
section
/-! SUPPORT. The event ring: what accepting, offering, consuming and writing do to its positions (R154, R157, R158, R159,
R161). -/

namespace Sys2Proof.Machine

/-- The distance between two positions of a ring, without the remainder. -/
theorem distance_eq {depth a b : Nat} (ha : a < depth) (hb : b < depth) :
    (a + depth - b) % depth = if b ≤ a then a - b else a + depth - b := by
  split
  · rw [show a + depth - b = (a - b) + depth by omega, Nat.add_mod_right, Nat.mod_eq_of_lt (by omega)]
  · exact Nat.mod_eq_of_lt (by omega)

/-- The occupancy of a ring whose positions lie in it. -/
theorem EventWriter.occupancy_eq (w : EventWriter) (ht : w.tail < w.depth) (hh : w.head < w.depth) :
    w.occupancy = if w.head ≤ w.tail then w.tail - w.head else w.tail + w.depth - w.head := distance_eq ht hh

/-- Accepting a record raises the occupancy by one and the queue by one (R157). -/
theorem EventWriter.accept_occupancy (w : EventWriter) (e : Event) (ht : w.tail < w.depth) (hh : w.head < w.depth)
    (hr : w.occupancy + 1 < w.depth) :
    (w.accept e).tail < w.depth ∧ (w.accept e).occupancy = w.occupancy + 1 ∧
      (w.accept e).queue.length = w.queue.length + 1 := by
  have htail : (w.accept e).tail < w.depth := by
    simp only [EventWriter.accept]; split <;> omega
  refine ⟨htail, ?_, by simp [EventWriter.accept]⟩
  have h1 := EventWriter.occupancy_eq (w.accept e) htail hh
  have h2 := EventWriter.occupancy_eq w ht hh
  have hd : (w.accept e).depth = w.depth := rfl
  have hk : (w.accept e).head = w.head := rfl
  have htl : (w.accept e).tail = if w.tail + 1 = w.depth then 0 else w.tail + 1 := rfl
  rw [h1, hd, hk, htl]
  rw [h2] at hr ⊢
  split <;> split at hr <;> split <;> simp_all <;> omega

/-- Accepting a record on a ring that has a position for it keeps the ring's law. -/
theorem EventWriter.accept_ringLaw (w : EventWriter) (e : Event) (h : w.ringLaw)
    (ha : w.state = .active) (ho : w.occupancy + 3 ≤ w.depth) : (w.accept e).ringLaw := by
  intro _
  obtain ⟨h16, ht, hh, hq, _⟩ := h ha
  obtain ⟨h1, h2, h3⟩ := w.accept_occupancy e ht hh (by omega)
  exact ⟨h16, h1, hh, by omega, by rw [h2]; exact ho⟩

/-- An offered event keeps the ring's law (R157). -/
theorem EventWriter.offer_ringLaw (w : EventWriter) (now : Count32) (e : Event) (h : w.ringLaw) :
    (w.offer now e).ringLaw := by
  unfold EventWriter.offer
  split
  · exact h
  · intro ha; simp_all
  · split
    · exact fun ha => h ha
    · split
      · exact w.accept_ringLaw e h ‹_› (by omega)
      · exact fun ha => h ha

/-- Offered events keep the ring's law. -/
theorem EventWriter.offers_ringLaw (now : Count32) (es : List Event) (w : EventWriter) (h : w.ringLaw) :
    (es.foldl (fun w e => w.offer now e) w).ringLaw := by
  induction es generalizing w with
  | nil => exact h
  | cons e es ih => exact ih _ (w.offer_ringLaw now e h)

/-- Posting keeps the ring's law. -/
theorem State.postAll_ringLaw (s : State) (es : List Event) (h : s.ew.ringLaw) : (s.postAll es).ew.ringLaw := by
  unfold State.postAll
  split
  · exact h
  · exact EventWriter.offers_ringLaw _ es s.ew h

/-- The end of a step keeps the ring's law. -/
theorem Work.finish_ringLaw (w : Work) (h : w.s.ew.ringLaw) : w.finish.ew.ringLaw := by
  unfold Work.finish
  split
  · exact w.s.postAll_ringLaw _ h
  · split
    · exact w.s.postAll_ringLaw _ h
    · exact State.postAll_ringLaw _ _ h

/-- An accepted head keeps the ring's law (R159, R161). -/
theorem State.eqHeadAccept_ringLaw (s : State) (value : Nat) (h : s.ew.ringLaw) (hv : value < s.ew.depth)
    (ha : advanceOf s.ew.depth s.ew.head value ≤ s.ew.written) : (s.eqHeadAccept value).ew.ringLaw := by
  have hk : ({ s.ew with head := value, armed := true } : EventWriter).ringLaw ∧
      (s.ew.state = .active →
        ({ s.ew with head := value, armed := true } : EventWriter).occupancy +
          advanceOf s.ew.depth s.ew.head value = s.ew.occupancy) := by
    have key : s.ew.state = .active →
        ({ s.ew with head := value, armed := true } : EventWriter).occupancy +
          advanceOf s.ew.depth s.ew.head value = s.ew.occupancy := by
      intro hs
      obtain ⟨h16, ht, hh, hq, hd⟩ := h hs
      have h1 := EventWriter.occupancy_eq { s.ew with head := value, armed := true } ht hv
      have h2 := EventWriter.occupancy_eq s.ew ht hh
      have h3 : advanceOf s.ew.depth s.ew.head value =
          if s.ew.head ≤ value then value - s.ew.head else value + s.ew.depth - s.ew.head := distance_eq hv hh
      simp only [EventWriter.written] at ha
      rw [h3] at ha ⊢; rw [h2] at ha ⊢; rw [h1]
      simp only at h1 ⊢
      split <;> split <;> split <;> simp_all <;> omega
    refine ⟨fun hs => ?_, key⟩
    obtain ⟨h16, ht, hh, hq, hd⟩ := h hs
    have := key hs
    simp only [EventWriter.written] at ha
    exact ⟨h16, ht, hv, by show s.ew.queue.length ≤ _; omega, by show _ + 2 ≤ s.ew.depth; omega⟩
  unfold State.eqHeadAccept
  split
  · exact hk.1
  · rename_i hne
    split
    · exact hk.1
    · intro hs
      obtain ⟨h16, ht, hh, hq, hd⟩ := h hs
      have h4 := hk.2 hs
      refine EventWriter.accept_ringLaw { s.ew with head := value, armed := true, overflow := none } _
        (fun hs' => hk.1 hs') hs ?_ hs
      show ({ s.ew with head := value, armed := true } : EventWriter).occupancy + 3 ≤ s.ew.depth
      omega

end Sys2Proof.Machine
end

