-- ==== Sys2Proof/Laws/Quiet.lean ====
section
/-! SUPPORT. `Quiet s t`: going from `s` to `t` leaves the device state, the sync controller, the cycle in hand, the edit
session and the entries of the active table as they were, and keeps the laws of the scores, of the matrix records and of
the event ring. The operations of the blocks below the Sync Controller are quiet: one lemma for each. -/

namespace Sys2Proof.Machine

/-- What a step at the lanes, the rings, the stores and the queues leaves alone. -/
structure Quiet (s t : State) : Prop where
  dev     : t.dev = s.dev
  enable  : t.enable = s.enable
  sc      : t.sc = s.sc
  cycle   : t.cycle = s.cycle
  edit    : t.edit = s.edit
  session : t.session = s.session
  entries : t.activeEntries = s.activeEntries
  scores  : s.scoresLaw → t.scoresLaw
  records : s.recordsLaw → t.recordsLaw
  ring    : s.ew.ringLaw → t.ew.ringLaw
  pending : t.pending = s.pending

theorem Quiet.refl (s : State) : Quiet s s := ⟨rfl, rfl, rfl, rfl, rfl, rfl, rfl, id, id, id, rfl⟩

theorem Quiet.trans {s t u : State} (h : Quiet s t) (k : Quiet t u) : Quiet s u :=
  ⟨k.dev.trans h.dev, k.enable.trans h.enable, k.sc.trans h.sc, k.cycle.trans h.cycle, k.edit.trans h.edit, k.session.trans h.session,
    k.entries.trans h.entries, fun x => k.scores (h.scores x),
    fun x => k.records (h.records x), fun x => k.ring (h.ring x), k.pending.trans h.pending⟩

/-- A step that keeps the fields that matter is quiet. -/
theorem Quiet.of_fields {s t : State} (hd : t.dev = s.dev) (hb : t.enable = s.enable) (hs : t.sc = s.sc) (hc : t.cycle = s.cycle)
    (he : t.edit = s.edit) (hn : t.session = s.session) (ha : t.active = s.active) (hw : t.ew = s.ew)
    (hp : t.pending = s.pending) (hr : t.hm.closed = s.hm.closed) : Quiet s t :=
  ⟨hd, hb, hs, hc, he, hn, by simp [State.activeEntries, ha], by simp [State.scoresLaw, ha], by simp [State.recordsLaw, hr],
    by rw [hw]; exact id, hp⟩

/-! ### Shared operations -/

theorem State.complete_quiet (s : State) (c : CmdRef) (st : Status) (r : Reg) : Quiet s (s.complete c st r) :=
  .of_fields (by simp) (by simp) (by simp) (by simp) (by simp) (by simp) (by simp) (by simp) (by simp) (by simp)

theorem State.completeAll_quiet (s : State) (cs : List CmdRef) (st : Status) (r : Reg) :
    Quiet s (s.completeAll cs st r) :=
  .of_fields (by simp) (by simp) (by simp) (by simp) (by simp) (by simp) (by simp) (by simp) (by simp) (by simp)

theorem State.retire_quiet (s : State) (p : PairId) (n : Nat) : Quiet s (s.retire p n) :=
  .of_fields rfl rfl rfl rfl rfl rfl rfl rfl rfl rfl

theorem State.setPair_quiet (s : State) (p : PairId) (q : Pair) : Quiet s (s.setPair p q) :=
  .of_fields rfl rfl rfl rfl rfl rfl rfl rfl rfl rfl

theorem State.setLane_quiet (s : State) (l : LaneId) (x : Lane) : Quiet s (s.setLane l x) :=
  .of_fields rfl rfl rfl rfl rfl rfl rfl rfl rfl rfl

theorem State.setRing_quiet (s : State) (i : RingId) (r : InRing) : Quiet s (s.setRing i r) :=
  .of_fields rfl rfl rfl rfl rfl rfl rfl rfl rfl rfl

theorem State.emit_quiet (s : State) (o : Output) : Quiet s (s.emit o) :=
  .of_fields rfl rfl rfl rfl rfl rfl rfl rfl rfl rfl

theorem State.beginCompletion_quiet (s : State) (p : PairId) (q : Pair) : Quiet s (s.beginCompletion p q) :=
  .of_fields rfl rfl rfl rfl rfl rfl rfl rfl rfl rfl

theorem State.postAll_quiet (s : State) (es : List Event) : Quiet s (s.postAll es) :=
  ⟨by simp, by simp, by simp, by simp, by simp, by simp, by simp [State.activeEntries], by simp [State.scoresLaw],
    by simp [State.recordsLaw], s.postAll_ringLaw es, by simp⟩

theorem Work.finish_quiet (w : Work) : Quiet w.s w.finish :=
  ⟨by simp, by simp, by simp, by simp, by simp, by simp, by simp [State.activeEntries], by simp [State.scoresLaw],
    by simp [State.recordsLaw], w.finish_ringLaw, by simp⟩

/-- A change of the state of a step in hand is quiet if it is. -/
theorem Work.on_quiet (w : Work) (f : State → State) (h : Quiet w.s (f w.s)) : Quiet w.s (w.on f).s := h

theorem Work.flush_quiet (w : Work) : Quiet w.s w.flush.s := w.finish_quiet

/-- A change of runtime records that keeps the law of the scores is quiet. -/
theorem State.updateRun_quiet (s : State) (h : Nat) (f : Runtime → Runtime)
    (hf : ∀ r : Runtime, r.scoreLaw → (f r).scoreLaw) : Quiet s (s.updateRun h f) := by
  refine ⟨rfl, rfl, rfl, rfl, rfl, rfl, ?_, ?_, id, id, rfl⟩
  · simp only [State.activeEntries, State.updateRun, List.map_map]
    apply List.map_congr_left
    intro a _
    simp only [Function.comp]
    split <;> rfl
  · intro hs a ha
    simp only [State.updateRun, List.mem_map] at ha
    obtain ⟨b, hb, rfl⟩ := ha
    split
    · exact hf _ (hs b hb)
    · exact hs b hb

/-! ### The Health Monitor -/

theorem Runtime.scored_scoreLaw (r : Runtime) (o : Verdict) (h : r.scoreLaw) : (r.scored o).scoreLaw := by
  unfold Runtime.scored
  split
  · exact h
  · refine ⟨?_, by simp⟩
    have := h.1
    cases o <;> simp only [scoreAfter] <;> omega

theorem Work.evaluate_quiet (w : Work) : Quiet w.s w.evaluate.s := by
  unfold Work.evaluate
  dsimp only
  split <;> exact .of_fields rfl rfl rfl rfl rfl rfl rfl rfl rfl rfl

/-- Posting the closed records that have no exchange in flight leaves those that have one (R134). -/
theorem Work.postReady_recordsLaw (w : Work) : w.postReady.s.recordsLaw := by
  intro m hm
  simpa using (List.mem_filter.mp hm).2

theorem Work.postReady_quiet (w : Work) : Quiet w.s w.postReady.s :=
  { Quiet.refl w.s with records := fun _ => w.postReady_recordsLaw }

theorem Work.count_quiet (w : Work) (f : Firing) (o : Verdict) (b : Bool) : Quiet w.s (w.count f o b).s :=
  { Quiet.refl w.s with records := fun _ => Work.postReady_recordsLaw _ }

theorem Work.score_quiet (w : Work) (f : Firing) (o : Verdict) : Quiet w.s (w.score f o).s := by
  unfold Work.score
  split
  · exact .refl _
  · refine .trans ?_ (Work.evaluate_quiet _)
    have := w.s.updateRun_quiet f.handle (fun r => r.scored o) fun r => r.scored_scoreLaw o
    split <;> exact this

/-! ### The Value Store -/

theorem State.completeStage_quiet (s : State) (d : DeferredStage) (f : Firing) (o : Verdict) :
    Quiet s (s.completeStage d f o) := s.complete_quiet ..

theorem State.settleValues_quiet (s : State) (f : Firing) (o : Verdict) : Quiet s (s.settleValues f o) := by
  unfold State.settleValues
  split
  · exact .refl _
  · dsimp only
    rename_i a _
    have h := s.updateRun_quiet f.handle (fun r => r.settled a.entry.mode) fun _ h => h
    split
    · split
      · exact h.trans (State.completeStage_quiet ..)
      · exact h
    · exact h

theorem Work.settle_quiet (w : Work) (f : Firing) (o : Verdict) (n : Nat) (b : Bool) :
    Quiet w.s (w.settle f o n b).s := by
  unfold Work.settle
  dsimp only
  have h := (w.score_quiet f o).trans ((w.score f o).count_quiet f o b)
  split <;> split <;> first | exact h | exact h.trans (State.settleValues_quiet ..)

theorem State.supersede_quiet (s : State) (d : Option DeferredStage) : Quiet s (s.supersede d) := by
  cases d <;> first | exact .refl _ | exact s.complete_quiet ..

theorem State.cancelStage_quiet (s : State) (d : Option DeferredStage) : Quiet s (s.cancelStage d) := by
  cases d <;> first | exact .refl _ | exact s.complete_quiet ..

/-! ### The Inbound Ring Writer -/

theorem State.returnSlot_quiet (s : State) (f : Firing) : Quiet s (s.returnSlot f) := by
  unfold State.returnSlot
  split
  · exact s.setRing_quiet ..
  · exact .refl _

theorem State.leaveLane_quiet (s : State) (l : LaneId) : Quiet s (s.leaveLane l) := s.setLane_quiet ..

theorem State.slotWriteStart_quiet (s : State) : Quiet s s.slotWriteStart := by
  unfold State.slotWriteStart
  split
  · split
    · exact .refl _
    · split
      · exact .of_fields rfl rfl rfl rfl rfl rfl rfl rfl rfl rfl
      · refine .trans ?_ (Work.finish_quiet _)
        refine .trans ?_ (Work.settle_quiet _ _ _ _ _)
        refine .trans ?_ (State.leaveLane_quiet _ _)
        refine .trans ?_ (State.returnSlot_quiet _ _)
        exact .of_fields rfl rfl rfl rfl rfl rfl rfl rfl rfl rfl
  · exact .refl _

theorem State.slotWriteEnd_quiet (s : State) (r : DmaWrite) : Quiet s (s.slotWriteEnd r) := by
  unfold State.slotWriteEnd
  split
  · split
    · exact .refl _
    · dsimp only
      split
      · refine .trans ?_ (Work.finish_quiet _)
        refine .trans ?_ (Work.settle_quiet _ _ _ _ _)
        exact .of_fields rfl rfl rfl rfl rfl rfl rfl rfl rfl rfl
      · refine .trans ?_ (Work.finish_quiet _)
        refine .trans ?_ (Work.settle_quiet _ _ _ _ _)
        exact .of_fields rfl rfl rfl rfl rfl rfl rfl rfl rfl rfl
  · exact .refl _

theorem State.ringDeleteFinish_quiet (s : State) (i : RingId) : Quiet s (s.ringDeleteFinish i) := by
  unfold State.ringDeleteFinish
  split
  · exact .refl _
  · split
    · exact (s.setRing_quiet ..).trans (State.complete_quiet ..)
    · exact .refl _

/-! ### The Lane Controllers -/

theorem State.sendRequest_quiet (s : State) (l : LaneId) (src : ExchangeSource) (k : Kind) (ws : List StationWord)
    (n : Nat) (d : Deadline) : Quiet s (s.sendRequest l src k ws n d) := .of_fields rfl rfl rfl rfl rfl rfl rfl rfl rfl rfl

theorem Work.laneChange_quiet (w : Work) (l : LaneId) (x : Lane) (c : LaneCause) :
    Quiet w.s (w.laneChange l x c).s :=
  .trans (w.s.setLane_quiet l x) (Work.evaluate_quiet ((w.on fun s => s.setLane l x).post _))

theorem Work.fault_quiet (w : Work) (l : LaneId) (c : LaneCause) : Quiet w.s (w.fault l c).s := by
  unfold Work.fault
  refine .trans ?_ (Work.laneChange_quiet _ _ _ _)
  exact w.s.completeAll_quiet ..

theorem State.completeTrain_quiet (s : State) (l : LaneId) (st : Status) : Quiet s (s.completeTrain l st) := by
  unfold State.completeTrain
  split
  · exact .refl _
  · exact (s.setLane_quiet ..).trans (State.complete_quiet ..)

theorem Work.countFailure_quiet (w : Work) (l : LaneId) (j : Verdict) : Quiet w.s (w.countFailure l j).s := by
  unfold Work.countFailure
  split
  · exact .refl _
  · split
    · exact w.s.setLane_quiet ..
    · dsimp only
      split
      · exact w.s.setLane_quiet ..
      · refine .trans ?_ (Work.fault_quiet _ _ _)
        exact w.s.setLane_quiet ..

theorem Work.concludeProbe_quiet (w : Work) (l : LaneId) (j : Verdict) : Quiet w.s (w.concludeProbe l j).s := by
  unfold Work.concludeProbe
  extract_lets x good w1
  have h1 : Quiet w.s w1.s := w.s.setLane_quiet ..
  split
  · refine .trans ?_ (Work.on_quiet _ _ (State.completeTrain_quiet _ _ _))
    exact h1.trans (Work.laneChange_quiet _ _ _ _)
  · split
    · refine .trans ?_ (Work.fault_quiet _ _ _)
      exact h1.trans (Work.on_quiet _ _ (State.completeTrain_quiet _ _ _))
    · exact h1

theorem Work.concludeScheduled_quiet (w : Work) (l : LaneId) (x : Exchange) (f : Firing) (j : Verdict)
    (ws : List StationWord) : Quiet w.s (w.concludeScheduled l x f j ws).s := by
  unfold Work.concludeScheduled
  split
  · exact .of_fields rfl rfl rfl rfl rfl rfl rfl rfl rfl rfl
  · refine .trans ?_ (Work.settle_quiet _ _ _ _ _)
    exact Work.on_quiet _ _ ((w.s.returnSlot_quiet f).trans (State.leaveLane_quiet ..))

theorem State.concludeHost_quiet (s : State) (l : LaneId) (x : Exchange) (h : HostExchange) (j : Verdict)
    (ws : List StationWord) : Quiet s (s.concludeHost l x h j ws) := by
  unfold State.concludeHost
  dsimp only
  split
  · exact (s.leaveLane_quiet l).trans (State.complete_quiet ..)
  · split
    · exact .of_fields rfl rfl rfl rfl rfl rfl rfl rfl rfl rfl
    · exact (s.leaveLane_quiet l).trans (State.complete_quiet ..)

theorem Work.conclude_quiet (w : Work) (l : LaneId) (j : Verdict) (ws : List StationWord) :
    Quiet w.s (w.conclude l j ws).s := by
  unfold Work.conclude
  split
  · exact .refl _
  · split
    · dsimp only
      split
      · refine .trans ?_ (Work.concludeProbe_quiet _ _ _)
        exact w.s.leaveLane_quiet l
      · exact w.s.leaveLane_quiet l
    · exact .trans (Work.concludeScheduled_quiet ..) (Work.countFailure_quiet ..)
    · refine .trans ?_ (Work.countFailure_quiet _ _ _)
      exact w.s.concludeHost_quiet ..

theorem State.setReceiver_quiet (s : State) (l : LaneId) (r : Receiver) : Quiet s (s.setReceiver l r) :=
  s.setLane_quiet ..

/-- A step that concludes an exchange and posts what follows is quiet. -/
theorem State.concludeStep_quiet (s : State) (l : LaneId) (j : Verdict) (ws : List StationWord) :
    Quiet s (s.work.conclude l j ws).finish :=
  (Work.conclude_quiet s.work l j ws).trans (Work.finish_quiet _)

theorem State.endStale_quiet (s : State) (l : LaneId) (n g : Bool) (bs : List Bool) : Quiet s (s.endStale l n g bs) := by
  unfold State.endStale
  dsimp only
  split
  · exact (s.setReceiver_quiet ..).trans (State.postAll_quiet ..)
  · exact s.setReceiver_quiet ..

theorem Work.abandon_quiet (w : Work) (l : LaneId) : Quiet w.s (w.abandon l).s := by
  unfold Work.abandon
  split
  · exact .refl _
  · split
    · exact .refl _
    · split
      · exact w.s.leaveLane_quiet l
      · refine .trans ?_ (Work.settle_quiet _ _ _ _ _)
        exact Work.on_quiet _ _ ((w.s.returnSlot_quiet _).trans (State.leaveLane_quiet ..))
      · exact (w.s.leaveLane_quiet l).trans (State.complete_quiet ..)

theorem Work.disable_quiet (w : Work) (l : LaneId) : Quiet w.s (w.disable l).s := by
  unfold Work.disable
  dsimp only
  refine .trans ?_ (Work.laneChange_quiet _ _ _ _)
  exact (w.abandon_quiet l).trans ((State.completeAll_quiet ..).trans (State.completeTrain_quiet ..))

theorem Work.configure_quiet (w : Work) (l : LaneId) (e : Bool) (r : LaneRate) (a : Bool) (d : Nat) (n : Bool) :
    Quiet w.s (w.configure l e r a d n).s := by
  unfold Work.configure
  dsimp only
  split
  · exact .trans (Work.on_quiet _ _ (State.setLane_quiet _ _ _)) (Work.laneChange_quiet _ _ _ _)
  · exact w.s.setLane_quiet ..
  · exact .trans (Work.on_quiet _ _ (State.setLane_quiet _ _ _)) (Work.disable_quiet _ _)
  · split
    · exact w.s.setLane_quiet ..
    · exact (w.s.setLane_quiet ..).trans (State.setLane_quiet ..)
  · split
    · exact w.s.setLane_quiet ..
    · exact .trans (Work.on_quiet _ _ (State.setLane_quiet _ _ _)) (Work.laneChange_quiet _ _ _ _)

theorem State.waitForTraining_quiet (s : State) (l : LaneId) (c : CmdRef) : Quiet s (s.waitForTraining l c) :=
  (s.completeTrain_quiet l .superseded).trans (State.setLane_quiet ..)

/-! ### Commands from the holding place -/

/-- A report command is quiet. -/
theorem State.beginReport_quiet (s : State) (c : CmdRef) (a : HostAddr) (b : List Byte) :
    Quiet s (s.beginReport c a b) := .of_fields rfl rfl rfl rfl rfl rfl rfl rfl rfl rfl

/-- A command is quiet if its owner is. -/
theorem State.runCommand_quiet (s : State) (op : Nat) (owner : CommandRecord → CmdRef → State → State)
    (h : ∀ r c t, Quiet t (owner r c t)) : Quiet s (s.runCommand op owner) := by
  unfold State.runCommand
  split
  · refine .trans ?_ (h _ _ _)
    exact .of_fields rfl rfl rfl rfl rfl rfl rfl rfl rfl rfl
  · exact .refl _

theorem adminOnly_quiet (owner : CommandRecord → CmdRef → State → State) (h : ∀ r c t, Quiet t (owner r c t))
    (r : CommandRecord) (c : CmdRef) (t : State) : Quiet t (adminOnly owner r c t) := by
  unfold adminOnly
  split
  · exact h r c t
  · exact t.complete_quiet ..

end Sys2Proof.Machine
end

