-- ==== Sys2Proof/Laws/Commands.lean ====
section
/-! SUPPORT. The commands that are quiet (Laws/Quiet.lean): one lemma for each. -/

namespace Sys2Proof.Machine

/-! ### The stores and the Health Monitor -/

theorem stageOwner_quiet (r : CommandRecord) (c : CmdRef) (s : State) : Quiet s (stageOwner r c s) := by
  unfold stageOwner
  extract_lets count
  split
  · exact s.complete_quiet ..
  · rename_i confirm _
    split
    · exact s.complete_quiet ..
    · split
      · exact s.complete_quiet ..
      · split
        · exact s.complete_quiet ..
        · split
          · exact s.complete_quiet ..
          · extract_lets t t1
            have h0 : Quiet s t := s.updateRun_quiet _ _ fun _ h => h
            have h : Quiet s t1 := h0.trans (State.supersede_quiet _ _)
            split
            · exact h
            · exact h.trans (State.complete_quiet ..)

theorem clearOwner_quiet (r : CommandRecord) (c : CmdRef) (s : State) : Quiet s (clearOwner r c s) := by
  unfold clearOwner
  split
  · exact s.complete_quiet ..
  · split
    · exact s.complete_quiet ..
    · split
      · exact s.complete_quiet ..
      · refine .trans ?_ (State.complete_quiet _ _ _ _)
        refine .trans ?_ (State.cancelStage_quiet _ _)
        exact s.updateRun_quiet _ _ fun _ h => h

theorem rearmOwner_quiet (r : CommandRecord) (c : CmdRef) (s : State) : Quiet s (rearmOwner r c s) := by
  unfold rearmOwner
  split
  · exact s.complete_quiet ..
  · split
    · exact s.complete_quiet ..
    · refine .trans ?_ (Work.finish_quiet _)
      refine .trans ?_ (Work.evaluate_quiet _)
      refine .trans ?_ (State.complete_quiet _ _ _ _)
      exact s.updateRun_quiet _ _ fun _ _ => ⟨by simp, by simp⟩

theorem State.matrixReport_quiet (s : State) : Quiet s (if s.serving then s.work.postReady.finish else s) := by
  split
  · exact (Work.postReady_quiet s.work).trans (Work.finish_quiet _)
  · exact .refl _

/-! ### The lanes -/

theorem laneConfigureOwner_quiet (r : CommandRecord) (c : CmdRef) (s : State) :
    Quiet s (laneConfigureOwner r c s) := by
  unfold laneConfigureOwner
  split
  · split
    · exact s.complete_quiet ..
    · split
      · exact s.complete_quiet ..
      · refine .trans ?_ (Work.finish_quiet _)
        exact .trans (Work.configure_quiet s.work _ _ _ _ _ _) (Work.on_quiet _ _ (State.complete_quiet ..))
  · exact s.complete_quiet ..

theorem trainOwner_quiet (r : CommandRecord) (c : CmdRef) (s : State) : Quiet s (trainOwner r c s) := by
  unfold trainOwner
  split
  · exact s.complete_quiet ..
  · split
    · exact s.complete_quiet ..
    · extract_lets w
      have h : Quiet s w.s := s.waitForTraining_quiet ..
      split
      · exact s.complete_quiet ..
      · exact h.trans ((Work.on_quiet _ _ (State.setLane_quiet ..)).trans (Work.finish_quiet _))
      · exact h.trans ((Work.laneChange_quiet ..).trans (Work.finish_quiet _))
      · exact h.trans ((Work.laneChange_quiet ..).trans (Work.finish_quiet _))

theorem laneExchangeOwner_quiet (r : CommandRecord) (c : CmdRef) (s : State) :
    Quiet s (laneExchangeOwner r c s) := by
  unfold laneExchangeOwner
  split
  · extract_lets oc ic w
    split
    · exact s.complete_quiet ..
    · split
      · exact s.complete_quiet ..
      · split
        · exact s.complete_quiet ..
        · split
          · exact s.complete_quiet ..
          · exact s.setLane_quiet ..
  · exact s.complete_quiet ..

theorem readLaneOwner_quiet (r : CommandRecord) (c : CmdRef) (s : State) : Quiet s (readLaneOwner r c s) := by
  unfold readLaneOwner
  split
  · exact s.complete_quiet ..
  · split
    · exact s.complete_quiet ..
    · exact s.beginReport_quiet ..

theorem State.replyComplete_quiet (s : State) (l : LaneId) (cs : List LineCell) : Quiet s (s.replyComplete l cs) := by
  unfold State.replyComplete
  split
  · split
    · exact (s.setReceiver_quiet ..).trans (State.concludeStep_quiet ..)
    · exact .refl _
  · exact .refl _

theorem State.exchangeDeadline_quiet (s : State) (l : LaneId) : Quiet s (s.exchangeDeadline l) := by
  unfold State.exchangeDeadline
  split
  · refine .trans ?_ (State.concludeStep_quiet _ _ _ _)
    split
    · exact s.setReceiver_quiet ..
    · exact .refl _
  · exact .refl _

theorem State.lineIdleTimeout_quiet (s : State) (l : LaneId) (cs : List LineCell) : Quiet s (s.lineIdleTimeout l cs) := by
  unfold State.lineIdleTimeout
  split
  · exact .refl _
  · split
    · exact .refl _
    · split
      · exact (s.setReceiver_quiet ..).trans (State.concludeStep_quiet ..)
      · exact .refl _
    · exact s.endStale_quiet ..
    · exact s.setReceiver_quiet ..

theorem State.staleFrame_quiet (s : State) (l : LaneId) (cs : List LineCell) : Quiet s (s.staleFrame l cs) := by
  unfold State.staleFrame
  split
  · exact s.endStale_quiet ..
  · exact .refl _

theorem State.probeInterval_quiet (s : State) (l : LaneId) : Quiet s (s.probeInterval l) := by
  unfold State.probeInterval
  split
  · exact (s.setLane_quiet ..).trans (State.sendRequest_quiet ..)
  · exact .refl _

theorem State.retrainTimerExpiry_quiet (s : State) (l : LaneId) : Quiet s (s.retrainTimerExpiry l) := by
  unfold State.retrainTimerExpiry
  split
  · exact (Work.laneChange_quiet s.work ..).trans (Work.finish_quiet _)
  · exact .refl _

theorem State.hostExchangeStart_quiet (s : State) (l : LaneId) : Quiet s (s.hostExchangeStart l) := by
  unfold State.hostExchangeStart
  split
  · exact (s.setLane_quiet ..).trans (State.sendRequest_quiet ..)
  · exact .refl _

theorem State.laneFrameBegins_quiet (s : State) (l : LaneId) : Quiet s (s.laneFrameBegins l) := by
  unfold State.laneFrameBegins
  split
  · exact s.setReceiver_quiet ..
  · exact .refl _

theorem State.cutOffReplyEnds_quiet (s : State) (l : LaneId) : Quiet s (s.cutOffReplyEnds l) := by
  unfold State.cutOffReplyEnds
  split
  · exact s.setReceiver_quiet ..
  · exact .refl _

/-! ### The rings, the tables, the time -/

theorem ringCreateOwner_quiet (r : CommandRecord) (c : CmdRef) (s : State) : Quiet s (ringCreateOwner r c s) := by
  unfold ringCreateOwner
  split
  · exact s.complete_quiet ..
  · split
    · exact s.complete_quiet ..
    · split
      · exact s.complete_quiet ..
      · exact (s.setRing_quiet ..).trans (State.complete_quiet ..)

theorem ringReleaseOwner_quiet (r : CommandRecord) (c : CmdRef) (s : State) : Quiet s (ringReleaseOwner r c s) := by
  unfold ringReleaseOwner
  split
  · exact s.complete_quiet ..
  · split
    · exact s.complete_quiet ..
    · split
      · exact s.complete_quiet ..
      · split
        · exact s.complete_quiet ..
        · exact (s.setRing_quiet ..).trans (State.complete_quiet ..)

theorem ringDeleteOwner_quiet (r : CommandRecord) (c : CmdRef) (s : State) : Quiet s (ringDeleteOwner r c s) := by
  unfold ringDeleteOwner
  split
  · exact s.complete_quiet ..
  · split
    · exact s.complete_quiet ..
    · split
      · exact s.complete_quiet ..
      · split
        · exact s.complete_quiet ..
        · split
          · exact s.complete_quiet ..
          · split
            · exact s.setRing_quiet ..
            · exact (s.setRing_quiet ..).trans (State.complete_quiet ..)

theorem readEntryOwner_quiet (r : CommandRecord) (c : CmdRef) (s : State) : Quiet s (readEntryOwner r c s) := by
  unfold readEntryOwner
  extract_lets h a
  split
  · exact s.complete_quiet ..
  · split
    · split
      · exact s.complete_quiet ..
      · exact s.beginReport_quiet ..
    · split
      · exact s.complete_quiet ..
      · split
        · exact s.complete_quiet ..
        · exact s.beginReport_quiet ..

theorem readTimeOwner_quiet (r : CommandRecord) (c : CmdRef) (s : State) : Quiet s (readTimeOwner r c s) := by
  unfold readTimeOwner
  split
  · exact s.complete_quiet ..
  · exact s.beginReport_quiet ..

/-! ### The queues and the event ring -/

theorem queueCreateOwner_quiet (r : CommandRecord) (c : CmdRef) (s : State) : Quiet s (queueCreateOwner r c s) := by
  unfold queueCreateOwner
  split
  · split
    · exact s.complete_quiet ..
    · split
      · exact s.complete_quiet ..
      · exact (s.setPair_quiet ..).trans (State.complete_quiet ..)
  · exact s.complete_quiet ..

theorem State.refuseOpcode_quiet (s : State) : Quiet s s.refuseOpcode := by
  unfold State.refuseOpcode
  split
  · split
    · refine .trans ?_ (State.complete_quiet _ _ _ _)
      exact .of_fields rfl rfl rfl rfl rfl rfl rfl rfl rfl rfl
    · exact .refl _
  · exact .refl _

theorem State.fetchDecision_quiet (s : State) : Quiet s s.fetchDecision := by
  unfold State.fetchDecision
  split
  · exact .refl _
  · exact .of_fields rfl rfl rfl rfl rfl rfl rfl rfl rfl rfl

theorem State.endDeletion_quiet (s : State) (p : PairId) (d : Deletion) : Quiet s (s.endDeletion p d) := by
  unfold State.endDeletion
  refine .trans ?_ (State.complete_quiet _ _ _ _)
  exact .of_fields rfl rfl rfl rfl rfl rfl rfl rfl rfl rfl

theorem State.finishDeletion_quiet (s : State) (p : PairId) : Quiet s (s.finishDeletion p) := by
  unfold State.finishDeletion
  split
  · split
    · exact .refl _
    · exact s.endDeletion_quiet ..
  · exact .refl _

/-- The depths that a record may name are at least the least of them. -/
theorem powerOfTwoIn_low {low high n : Nat} (h : powerOfTwoIn low high n = true) : low ≤ n := by
  simp only [powerOfTwoIn, Bool.and_eq_true, decide_eq_true_eq] at h
  exact h.1.1

theorem eventsOpenOwner_quiet (r : CommandRecord) (c : CmdRef) (s : State) : Quiet s (eventsOpenOwner r c s) := by
  unfold eventsOpenOwner
  split
  · exact s.complete_quiet ..
  · split
    · exact s.complete_quiet ..
    · split
      · exact s.complete_quiet ..
      · rename_i h _
        refine .trans ?_ (State.complete_quiet _ _ _ _)
        refine ⟨rfl, rfl, rfl, rfl, rfl, rfl, rfl, id, id, fun _ _ => ?_, rfl⟩
        have hd : 16 ≤ recordField16 r 12 := by
          simp only [not_or, Bool.not_eq_false] at h
          exact powerOfTwoIn_low h.2.1
        simp only [EventWriter.reset, EventWriter.occupancy]
        refine ⟨hd, by omega, by omega, by simp, ?_⟩
        simp; omega

theorem State.eqHeadWrite_quiet (s : State) (v : Reg) : Quiet s (s.eqHeadWrite v) := by
  unfold State.eqHeadWrite
  split
  · split
    · rename_i h
      have hk := fun k => s.eqHeadAccept_ringLaw v.toNat k h.1 h.2
      unfold State.eqHeadAccept at hk ⊢
      split
      · rename_i h0; simp only [h0] at hk; exact ⟨rfl, rfl, rfl, rfl, rfl, rfl, rfl, id, id, hk, rfl⟩
      · rename_i h0
        split
        · rename_i h1; simp only [h0, h1] at hk; exact ⟨rfl, rfl, rfl, rfl, rfl, rfl, rfl, id, id, hk, rfl⟩
        · rename_i h1; simp only [h0, h1] at hk; exact ⟨rfl, rfl, rfl, rfl, rfl, rfl, rfl, id, id, hk, rfl⟩
    · exact ⟨rfl, rfl, rfl, rfl, rfl, rfl, rfl, id, id, fun _ h => (nomatch h), rfl⟩
  · exact .refl _

theorem State.eventWriteEnd_quiet (s : State) (r : DmaWrite) : Quiet s (s.eventWriteEnd r) := by
  unfold State.eventWriteEnd
  split
  · exact ⟨rfl, rfl, rfl, rfl, rfl, rfl, rfl, id, id, fun h k => h k, rfl⟩
  · split
    · exact .refl _
    · rename_i q rest hq
      refine ⟨rfl, rfl, rfl, rfl, rfl, rfl, rfl, id, id, fun h k => ?_, rfl⟩
      obtain ⟨h16, ht, hh, hl, ho⟩ := h k
      refine ⟨h16, ht, hh, ?_, ho⟩
      show s.ew.queue.tail.length ≤ s.ew.occupancy
      simp only [List.length_tail]
      omega
    · exact ⟨rfl, rfl, rfl, rfl, rfl, rfl, rfl, id, id, fun _ h => (nomatch h), rfl⟩

end Sys2Proof.Machine
end

