-- ==== Sys2Proof/Laws/Table.lean ====
section
/-! SUPPORT. The tables: key order, and that each change of a table keeps the law of R3. -/

namespace Sys2Proof.Machine

/-! ### Key order (R3) -/

theorem Entry.before_trans {a b c : Entry} (h : a.before b = true) (k : b.before c = true) : a.before c = true := by
  simp only [Entry.before, decide_eq_true_eq] at *
  omega

/-- Of two entries with different keys one precedes the other. -/
theorem Entry.before_total {a b : Entry} (h : a.key ≠ b.key) (k : a.before b = false) : b.before a = true := by
  simp only [Entry.before, decide_eq_true_eq, decide_eq_false_iff_not, Entry.key, ne_eq, Prod.mk.injEq] at *
  omega

/-- The entries of a table after an insertion (R8). -/
theorem mem_insertEntry {e x : Entry} {table : List Entry} : x ∈ insertEntry e table ↔ x = e ∨ x ∈ table := by
  induction table with
  | nil => simp [insertEntry]
  | cons y ys ih =>
    simp only [insertEntry]
    split
    · simp only [List.mem_cons, ih]; tauto
    · simp

theorem length_insertEntry (e : Entry) (table : List Entry) : (insertEntry e table).length = table.length + 1 := by
  induction table with
  | nil => rfl
  | cons y ys ih => simp only [insertEntry]; split <;> simp [ih]

/-- An insertion of a new key keeps the order (R3, R8). -/
theorem insertEntry_sorted {e : Entry} {table : List Entry} (h : table.Pairwise fun a b => a.before b = true)
    (hk : ∀ x ∈ table, x.key ≠ e.key) : (insertEntry e table).Pairwise fun a b => a.before b = true := by
  induction table with
  | nil => simp [insertEntry]
  | cons y ys ih =>
    obtain ⟨h1, h2⟩ := List.pairwise_cons.1 h
    simp only [insertEntry]
    split
    · rename_i hb
      refine List.pairwise_cons.2 ⟨fun x hx => ?_, ih h2 fun x hx => hk x (List.mem_cons_of_mem _ hx)⟩
      rcases mem_insertEntry.1 hx with rfl | hx
      · exact hb
      · exact h1 x hx
    · rename_i hb
      have hey : e.before y = true :=
        Entry.before_total (hk y List.mem_cons_self) (by simpa using hb)
      refine List.pairwise_cons.2 ⟨fun x hx => ?_, h⟩
      rcases List.mem_cons.1 hx with rfl | hx
      · exact hey
      · exact Entry.before_trans hey (h1 x hx)

theorem insertEntry_nodup {e : Entry} {table : List Entry} (h : (table.map Entry.handle).Nodup)
    (hh : ∀ x ∈ table, x.handle ≠ e.handle) : ((insertEntry e table).map Entry.handle).Nodup := by
  induction table with
  | nil => simp [insertEntry]
  | cons y ys ih =>
    rw [List.map_cons, List.nodup_cons] at h
    have h3 := hh y List.mem_cons_self
    simp only [insertEntry]
    split
    · rw [List.map_cons, List.nodup_cons]
      refine ⟨fun hm => ?_, ih h.2 fun x hx => hh x (List.mem_cons_of_mem _ hx)⟩
      obtain ⟨x, hx, hxy⟩ := List.mem_map.1 hm
      rcases mem_insertEntry.1 hx with rfl | hx
      · exact h3 hxy.symm
      · exact h.1 (List.mem_map.2 ⟨x, hx, hxy⟩)
    · rw [List.map_cons, List.nodup_cons]
      refine ⟨fun hm => ?_, by rw [List.map_cons, List.nodup_cons]; exact h⟩
      obtain ⟨x, hx, hxy⟩ := List.mem_map.1 hm
      exact hh x hx hxy

/-! ### Lookups -/

theorem findKey_none {key : Nat × Nat × Nat × Nat} {table : List Entry} (h : findKey key table = none) :
    ∀ x ∈ table, x.key ≠ key := by
  intro x hx
  have := List.find?_eq_none.1 h x hx
  simpa using this

theorem findHandle_none {handle : Nat} {table : List Entry} (h : findHandle handle table = none) :
    ∀ x ∈ table, x.handle ≠ handle := by
  intro x hx
  have := List.find?_eq_none.1 h x hx
  simpa using this

theorem mem_withoutHandle {handle : Nat} {table : List Entry} {x : Entry} :
    x ∈ withoutHandle handle table ↔ x ∈ table ∧ x.handle ≠ handle := by
  simp [withoutHandle]

/-! ### The law of R3 -/

theorem tableLaw_nil : tableLaw [] := ⟨by simp, by simp, by simp⟩

/-- A removal keeps the law (R9). -/
theorem tableLaw_without {table : List Entry} (h : tableLaw table) (handle : Nat) :
    tableLaw (withoutHandle handle table) := by
  obtain ⟨h1, h2, h3⟩ := h
  refine ⟨(List.length_filter_le _ _).trans h1, h2.filter _, ?_⟩
  exact (List.Sublist.map _ List.filter_sublist).nodup h3

/-- An insertion that passes the checks of R8 keeps the law. -/
theorem tableLaw_insert {table : List Entry} {e : Entry} (h : tableLaw table) (hl : table.length < 256)
    (hh : ∀ x ∈ table, x.handle ≠ e.handle) (hk : ∀ x ∈ table, x.key ≠ e.key) : tableLaw (insertEntry e table) :=
  ⟨by rw [length_insertEntry]; omega, insertEntry_sorted h.2.1 hk, insertEntry_nodup h.2.2 hh⟩

/-- A table from which an entry of it has been taken has room for one (R10). -/
theorem length_withoutHandle {table : List Entry} {handle : Nat} {x : Entry} (h : findHandle handle table = some x) :
    (withoutHandle handle table).length < table.length := by
  have hx := List.mem_of_find?_eq_some h
  have hp : x.handle = handle := by simpa using List.find?_some h
  refine List.length_filter_lt_length_iff_exists.2 ⟨x, hx, by simp [hp]⟩

/-! ### The swap (R19, R20) -/

/-- The entries of the active table after a swap are those of the edit table, in order. -/
theorem swap_entries (table : List Entry) (old : List ActiveEntry) :
    (table.map (carryOver old)).map ActiveEntry.entry = table := by
  induction table with
  | nil => rfl
  | cons e es ih => simp [carryOver, ih]

/-- A new entry's record is one of the old table's or fresh, so the law of the scores is kept. -/
theorem carryOver_scoreLaw (old : List ActiveEntry) (e : Entry) (h : ∀ a ∈ old, a.run.scoreLaw) :
    (carryOver old e).run.scoreLaw := by
  unfold carryOver
  cases hc : carriedFrom old e with
  | none => exact ⟨by simp [Runtime.fresh], by simp [Runtime.fresh]⟩
  | some a => exact h a (List.mem_of_find?_eq_some hc)

end Sys2Proof.Machine
end

