-- ==== Sys2Proof/Certificates/Slice0/Obligations.lean ====
section
/-! DEFINITION. The statements for the provers. A statement of a host command says what the step in which the Command
Processor takes it from the holding place does (R145); `Answers c s u h status result` says that it leads from `s` to `u`
with its own completion handed, so that `u` with its listed fields is also the frame. -/

open Sys2Proof Sys2Proof.Machine

/-! ### The machine as a whole -/

/-- A step takes the command at the front of the queue and is that command's execution on the rest. -/
def Obligations.StepRunsFrontCommand : Prop :=
  ∀ (c : Instr) (rest : List Instr) (s : State), step { s with pending := c :: rest } = exec c { s with pending := rest }

/-- R66, R71, R72, R98, R99, R108: with nothing waiting and nothing due, one reference clock passes. While the time
base runs, an STU in progress loses a clock, and its last clock counts it in local time and in cycle time, which stays
at 65535; a pair busy when cycle time reaches BM shows activity. While the time base is stopped it counts nothing. A
beacon of the unit's own counts its clocks, and each lane its probe interval, its retrain timer and a deadline held in
clocks, down to 0. The effective STU length is the nominal one times (1 + trim / 1,000,000): each STU gets a whole
number of clocks, and any run of `n` STU counted under one trim differs from the exact sum of effective lengths by less
than one clock. That the clocks left over are carried into the next STU, which fixes the STU that takes the odd clock,
is the model's choice, since R98 gives the bound alone (log entry 7), and so is that an empty queue lets a clock pass
(log entry 3). -/
def Obligations.IdleStepLetsAClockPass : Prop :=
  (∀ s : State, s.pending = [] → s.serving = true →
    (s.eventDue = true → step s = .next s) ∧
    (s.eventDue = false → ∃ t, step s = .next t ∧ t.hm = s.hm ∧ t.ew = s.ew ∧
      t.active = s.active ∧ t.pairs = s.pairs ∧ t.rings = s.rings ∧ t.outputs = s.outputs ∧
      t.sc.cycleCount = s.sc.cycleCount ∧ t.sc.trim = s.sc.trim ∧ t.sc.plan = s.sc.plan ∧ t.sc.sync = s.sc.sync ∧
      t.sc.role = s.sc.role ∧ t.sc.receiving = s.sc.receiving ∧
      (∀ l : LaneId, t.lanes[l] = { s.lanes[l] with
        probeWait := (s.lanes[l]).probeWait - 1,
        retrainTimer := (s.lanes[l]).retrainTimer.map (fun n => n - 1),
        inFlight := (s.lanes[l]).inFlight.map fun (x : Exchange) => { x with
          deadline := match x.deadline with
            | .inClocks n => .inClocks (n - 1)
            | .atLocal time => .atLocal time } }) ∧
      t.sc.sending = s.sc.sending.map (fun b => { b with clocks := b.clocks + 1 }) ∧
      (s.timeRuns = false → t.sc.localTime = s.sc.localTime ∧ t.sc.cycleTime = s.sc.cycleTime ∧
        t.sc.activity = s.sc.activity) ∧
      (s.timeRuns = true → s.sc.plan ≠ none → 2 ≤ s.sc.stuLeft →
        t.sc.stuLeft + 1 = s.sc.stuLeft ∧ t.sc.stuLength = s.sc.stuLength ∧ t.sc.localTime = s.sc.localTime ∧
        t.sc.cycleTime = s.sc.cycleTime ∧ t.sc.activity = s.sc.activity) ∧
      (∀ p, s.timeRuns = true → s.sc.plan = some p → s.sc.stuLeft ≤ 1 →
        t.sc.localTime = s.sc.localTime + 1 ∧
        t.sc.cycleTime = (if s.sc.cycleTime < 65535 then s.sc.cycleTime + 1 else 65535) ∧
        t.sc.stuLeft = t.sc.stuLength ∧ t.sc.stuCarry < 1000000 ∧
        t.sc.stuLength * 1000000 + t.sc.stuCarry = s.sc.stuCarry + effectiveMicro p.stu s.sc.trim ∧
        (t.sc.activity = true ↔ s.sc.activity = true ∨
          (p.bm ≤ s.sc.cycleTime + 1 ∧ (s.sc.receiving ≠ none ∨ s.sc.sending ≠ none)))))) ∧
  (∀ (stu : Nat) (trim : Int), -1000000 ≤ trim →
    (effectiveMicro stu trim : Int) = stu * 1000000 + stu * trim) ∧
  (∀ (t : TimeSync) (stu n : Nat), t.stuCarry < 1000000 →
    let run := List.range n |>.foldl (fun (a : TimeSync × Nat) _ => (a.1.nextStu stu, a.2 + (a.1.nextStu stu).stuLength))
      (t, 0)
    n * effectiveMicro stu t.trim < (run.2 + 1) * 1000000 ∧ run.2 * 1000000 < n * effectiveMicro stu t.trim + 1000000)

/-- R5, R24, R59, R83, R117, R123, R136, R154, R163, R164, R167: what the machine holds after a device reset; and there
the laws hold that every step keeps. -/
def Obligations.ResetGivesEveryBlockItsValues : Prop :=
  (∀ l : LaneId, State.reset.lanes[l] =
      { state := .off, rate := .mbit25, autoRetrain := false, retrainDelay := 10, staleNotify := false, sequence := 0,
        failures := 0, inFlight := none, queue := [], probesSent := 0, goodRun := 0, probeWait := 0,
        retrainTimer := none, waitingTrain := none, receiver := .idle }) ∧
  (∀ p : PairId, State.reset.pairs[p].state = .absent ∧ State.reset.pairs[p].deleting = none ∧
      State.reset.pairs[p].depth = 0 ∧ State.reset.pairs[p].cqPhase = true ∧ State.reset.pairs[p].armed = true ∧
      State.reset.pairs[p].outstanding = 0 ∧ State.reset.pairs[p].cause = .none) ∧
  (∀ r : RingId, State.reset.rings[r].state = .absent ∧ State.reset.rings[r].closing = none ∧
      State.reset.rings[r].written = 0 ∧ State.reset.rings[r].returned = 0 ∧ State.reset.rings[r].reserved = 0 ∧
      State.reset.rings[r].lap = true) ∧
  State.reset.active = [] ∧ State.reset.edit = [] ∧ State.reset.session = none ∧ State.reset.cycle = none ∧
  State.reset.sc.plan = none ∧ State.reset.sc.sync = .off ∧ State.reset.sc.role = .follower ∧ State.reset.sc.trim = 0 ∧
  State.reset.sc.trimState = .tracking ∧ State.reset.sc.hold = false ∧
  State.reset.hm.degraded = false ∧ State.reset.hm.expected = 0 ∧ State.reset.hm.matrixNumber = 0 ∧
  State.reset.hm.openRecord = none ∧ State.reset.hm.closed = [] ∧
  State.reset.ew.state = .absent ∧ State.reset.ew.phase = true ∧ State.reset.ew.queue = [] ∧
  State.reset.ew.armed = true ∧ State.reset.ew.overflow = none ∧ State.reset.ew.dropped = 0 ∧
  (∀ offset : Nat, State.reset.readRegister offset 4 = if offset = 0 then 0x0E580001 else 0) ∧
  State.reset.tablesLaw ∧ State.reset.scoresLaw ∧ State.reset.recordsLaw ∧ State.reset.cycleLaw ∧
  State.reset.roleLaw ∧ State.reset.ew.ringLaw

/-- R167, R168: a device reset gives every field its reset value; a function reset does too, but for the admin
registers; ENABLE 0 is a function reset while ENABLE is set, and changes nothing otherwise. What is outside the part
(what it has sent, what waits to be presented) and the model's counter of free values stay (log entry 4). -/
def Obligations.ResetsReturnEveryBlock : Prop :=
  ∀ s : State,
    let outside := fun t : State => { t with outputs := s.outputs, free := s.free, pending := s.pending }
    let kept := fun t : State => { t with adminSq := s.adminSq, adminCq := s.adminCq, adminDepth := s.adminDepth }
    exec .deviceReset s = .next (outside State.reset) ∧
    exec .functionLevelReset s = .next (kept (outside State.reset)) ∧
    (s.enable = true → exec .enableClear s = .next (kept (outside State.reset))) ∧
    (s.enable = false → exec .enableClear s = .next s)

/-- R146: a completion for a pair that serves is handed once: it joins what the pair owes, its write begins if none is in
progress (log entry 11), and nothing else changes; for a pair in ERROR, deleting or ABSENT the command is retired without
a record. -/
def Obligations.CompletionIsHandedOnceOrRetired : Prop :=
  ∀ (s : State) (c : CmdRef) (status : Status) (result : Reg),
    (s.pairs[c.pair].serves = true → Handed s (s.complete c status result) ⟨c, status, result⟩) ∧
    (s.pairs[c.pair].serves = false →
      (s.complete c status result).pairs[c.pair].outstanding = s.pairs[c.pair].outstanding - 1 ∧
      (s.complete c status result).pairs[c.pair].owed = s.pairs[c.pair].owed ∧
      (∀ p : PairId, p ≠ c.pair → (s.complete c status result).pairs[p] = s.pairs[p]) ∧
      s.complete c status result = { s with pairs := (s.complete c status result).pairs })

/-! ### The laws that every step keeps -/

/-- R3, R5, R125, R134: each table has at most 256 entries in strictly increasing key order with no handle twice, and
the edit table is empty while no session is open; every score lies in 0 to 15 and an entry is disabled exactly at 15; a
closed matrix record is kept only while it has an exchange in flight. Every step keeps each of the three laws. -/
def Obligations.EveryStepKeepsTablesAndScores : Prop :=
  (∀ s t : State, s.tablesLaw → step s = .next t → t.tablesLaw) ∧
  (∀ s t : State, s.scoresLaw → step s = .next t → t.scoresLaw) ∧
  (∀ s t : State, s.recordsLaw → step s = .next t → t.recordsLaw)

/-- R25, R41, R104, R112, R165, R168: ENABLE is set exactly outside OFF, the sync state is other than OFF exactly while
RUNNING, a RUNNING device has a plan, a cycle is in hand only while LOCKED, and a unit that is no candidate is a FOLLOWER
with no beacon of its own that counts; every step keeps this. -/
def Obligations.EveryStepKeepsStatesAndRoles : Prop :=
  ∀ s t : State, s.cycleLaw → s.roleLaw → step s = .next t → t.cycleLaw ∧ t.roleLaw

/-- R154, R157, R159, R161: an ACTIVE event ring's positions lie in it, what is not written yet is unconsumed, and at
most depth - 2 records are unconsumed; every step keeps this. -/
def Obligations.EveryStepKeepsTheEventRing : Prop :=
  ∀ s t : State, s.ew.ringLaw → step s = .next t → t.ew.ringLaw

/-! ### The schedule table (chapter 1) -/

/-- R6: EDIT BEGIN copies the active table into the edit table and opens the session for the issuing pair, or is refused
with nothing changed while a session is open. A must-be-zero byte refuses it first (R173). -/
def Obligations.EditBeginOpensTheSession : Prop :=
  ∀ (s : State) (h : Held), s.heldCommand 0x01 = some h →
    (reservedZero h.record [] = false → Answers .editBegin s s.taken h .badField 0) ∧
    (reservedZero h.record [] = true →
      (s.session = none →
        Answers .editBegin s
          { s.taken with edit := s.activeEntries, session := some { owner := h.pair, commit := none } } h .ok
          (BitVec.ofNat 32 s.active.length)) ∧
      (s.session ≠ none → Answers .editBegin s s.taken h .sessionOpen 0))

/-- R7: ENTRY INSERT, ENTRY REMOVE and ENTRY MODIFY change the edit table alone, and are refused by the first of: no
session, another owner, a pending commit. (ENTRY REMOVE checks its must-be-zero bytes before, R173.) -/
def Obligations.EditingNeedsTheOwnersSession : Prop :=
  ∀ (s : State) (h : Held) (c : Instr) (opcode : Nat),
    (c, opcode) ∈ [(Instr.entryInsert, 0x02), (Instr.entryRemove, 0x03), (Instr.entryModify, 0x04)] →
    s.heldCommand opcode = some h →
    (∃ t, exec c s = .next t ∧
      t = { s with holding := none, edit := t.edit, pairs := t.pairs, outputs := t.outputs }) ∧
    ((opcode = 0x03 → reservedZero h.record [(8, 8)] = true) →
      (s.session = none → Answers c s s.taken h .noSession 0) ∧
      (∀ x, s.session = some x → x.owner ≠ h.pair → Answers c s s.taken h .notOwner 0) ∧
      (∀ x, s.session = some x → x.owner = h.pair → x.commit ≠ none → Answers c s s.taken h .commitPending 0))

/-- R2, R173, section 11.4: the entry record of ENTRY INSERT and ENTRY MODIFY is accepted exactly when each field, read
from its bytes, has a code of its table and is in its range if the kind carries it and zero if not, and every
must-be-zero byte is zero; the entry then has those fields. -/
def Obligations.AcceptedEntryFitsItsKind : Prop :=
  ∀ (r : CommandRecord) (e : Entry), recordEntry r = some e ↔
    e.handle = recordByte r 8 ∧
    (match e.kind with | .send => 1 | .fetch => 2 | .swap => 3 | .probe => 4 | .marker => 5) = recordByte r 9 ∧
    e.lane.val = recordByte r 10 ∧ e.period = recordByte r 11 ∧ e.phase = recordByte r 12 ∧
    e.outCount = recordByte r 13 ∧ e.inCount = recordByte r 14 ∧
    (match e.mode with | .none => 0 | .oneShot => 1 | .hold => 2) = recordByte r 15 ∧ e.ring.val = recordByte r 16 ∧
    (match e.notify with | .none => 0 | .failures => 1 | .all => 2) = recordByte r 17 ∧
    e.mark = recordByte r 18 + 256 * recordByte r 19 ∧ e.window = recordByte r 20 + 256 * recordByte r 21 ∧
    16 ≤ e.mark ∧ e.mark ≤ 65535 ∧ e.handle ≤ 255 ∧ e.period ∈ [1, 2, 4, 8, 16, 32, 64] ∧ e.phase < e.period ∧
    (e.kind ≠ .marker → 4 ≤ e.window ∧ e.window ≤ 4095) ∧
    (e.kind = .marker → e.lane = 0 ∧ e.window = 0 ∧ e.notify = .none) ∧
    (e.kind = .send ∨ e.kind = .swap → 1 ≤ e.outCount ∧ e.outCount ≤ 16 ∧ e.mode ≠ .none) ∧
    (e.kind = .fetch ∨ e.kind = .probe ∨ e.kind = .marker → e.outCount = 0 ∧ e.mode = .none) ∧
    (e.kind = .fetch ∨ e.kind = .swap → 1 ≤ e.inCount ∧ e.inCount ≤ 16) ∧
    (e.kind = .send ∨ e.kind = .probe ∨ e.kind = .marker → e.inCount = 0 ∧ e.ring = 0) ∧
    recordByte r 1 = 0 ∧ (∀ i, 4 ≤ i → i < 8 → recordByte r i = 0) ∧ (∀ i, 22 ≤ i → i < 64 → recordByte r i = 0)

/-- R8: for the owner with no commit pending, ENTRY INSERT is refused by the first of its checks that applies, with the
edit table left as it was; else the entry joins the edit table in key order, and the result is its position. -/
def Obligations.EntryInsertPlacesTheEntry : Prop :=
  ∀ (s : State) (h : Held), s.heldCommand 0x02 = some h → s.session = some { owner := h.pair, commit := none } →
    tableLaw s.edit →
    (recordEntry h.record = none →
      Answers .entryInsert s s.taken h .badField (BitVec.ofNat 32 (recordByte h.record 8))) ∧
    (∀ e, recordEntry h.record = some e →
      (s.edit.length = 256 → Answers .entryInsert s s.taken h .tableFull 0) ∧
      (s.edit.length < 256 →
        (∀ x ∈ s.edit, x.handle = e.handle →
          Answers .entryInsert s s.taken h .handleInUse (BitVec.ofNat 32 x.handle)) ∧
        ((∀ x ∈ s.edit, x.handle ≠ e.handle) →
          (∀ x ∈ s.edit, x.key = e.key →
            Answers .entryInsert s s.taken h .duplicateKey (BitVec.ofNat 32 x.handle)) ∧
          ((∀ x ∈ s.edit, x.key ≠ e.key) →
            ∃ (table : List Entry) (i : Nat), (∀ x, x ∈ table ↔ x = e ∨ x ∈ s.edit) ∧ tableLaw table ∧
              table[i]? = some e ∧
              Answers .entryInsert s { s.taken with edit := table } h .ok (BitVec.ofNat 32 i)))))

/-- R9, R173: a must-be-zero byte that is not zero refuses ENTRY REMOVE before every other check. Then, for the owner
with no commit pending, it takes the entry with the handle out of the edit table, the rest keeping its order, with the
number left as the result; a handle not in it is refused with NO_ENTRY. -/
def Obligations.EntryRemoveTakesTheEntryOut : Prop :=
  ∀ (s : State) (h : Held), s.heldCommand 0x03 = some h →
    (reservedZero h.record [(8, 8)] = false → Answers .entryRemove s s.taken h .badField 0) ∧
    (reservedZero h.record [(8, 8)] = true → s.session = some { owner := h.pair, commit := none } →
      ((∀ x ∈ s.edit, x.handle ≠ recordByte h.record 8) → Answers .entryRemove s s.taken h .noEntry 0) ∧
      ((∃ x ∈ s.edit, x.handle = recordByte h.record 8) →
        Answers .entryRemove s
          { s.taken with edit := s.edit.filter fun x => decide (x.handle ≠ recordByte h.record 8) } h .ok
          (BitVec.ofNat 32 (s.edit.countP fun x => decide (x.handle ≠ recordByte h.record 8)))))

/-- R10: for the owner with no commit pending, ENTRY MODIFY is refused by the first of its checks that applies, with the
edit table left as it was; else the entry with the record's handle is replaced by the record's entry in key order, and
the result is its new position. Its own present key is no duplicate. -/
def Obligations.EntryModifyReplacesTheEntry : Prop :=
  ∀ (s : State) (h : Held), s.heldCommand 0x04 = some h → s.session = some { owner := h.pair, commit := none } →
    tableLaw s.edit →
    ((∀ x ∈ s.edit, x.handle ≠ recordByte h.record 8) → Answers .entryModify s s.taken h .noEntry 0) ∧
    ((∃ x ∈ s.edit, x.handle = recordByte h.record 8) →
      (recordEntry h.record = none →
        Answers .entryModify s s.taken h .badField (BitVec.ofNat 32 (recordByte h.record 8))) ∧
      (∀ e, recordEntry h.record = some e →
        (∀ x ∈ s.edit, x.handle ≠ e.handle → x.key = e.key →
          Answers .entryModify s s.taken h .duplicateKey (BitVec.ofNat 32 x.handle)) ∧
        ((∀ x ∈ s.edit, x.handle ≠ e.handle → x.key ≠ e.key) →
          ∃ (table : List Entry) (i : Nat),
            (∀ x, x ∈ table ↔ x = e ∨ (x ∈ s.edit ∧ x.handle ≠ e.handle)) ∧ tableLaw table ∧ table[i]? = some e ∧
              Answers .entryModify s { s.taken with edit := table } h .ok (BitVec.ofNat 32 i))))

/-- R12, R173: a must-be-zero byte that is not zero refuses EDIT DISCARD before every other check. Then, by the owner,
it closes the session and empties the edit table, a pending EDIT COMMIT completing CANCELLED before; the result is the
number of entries held. -/
def Obligations.EditDiscardClosesTheSession : Prop :=
  ∀ (s : State) (h : Held), s.heldCommand 0x07 = some h →
    (reservedZero h.record [] = false → Answers .editDiscard s s.taken h .badField 0) ∧
    (reservedZero h.record [] = true →
      (s.session = none → Answers .editDiscard s s.taken h .noSession 0) ∧
      (∀ x, s.session = some x → x.owner ≠ h.pair → Answers .editDiscard s s.taken h .notOwner 0) ∧
      (s.session = some { owner := h.pair, commit := none } →
        Answers .editDiscard s { s.taken with edit := [], session := none } h .ok (BitVec.ofNat 32 s.edit.length)) ∧
      (∀ ref, s.session = some { owner := h.pair, commit := some ref } →
        Answers .editDiscard s ({ s.taken with edit := [], session := none }.complete ref .cancelled 0) h .ok
          (BitVec.ofNat 32 s.edit.length)))

/-- R15: the minimum window is the least number of STU that covers both frames and the turnaround. -/
def Obligations.MinimumWindowIsTheLeastThatCovers : Prop :=
  (∀ (o i : Nat) (rate : LaneRate) (stu w : Nat), 0 < stu →
    (minimumWindow o i rate stu ≤ w ↔
      ((60 + 16 * o) + (52 + 16 * i)) * (match rate with | .mbit12 => 8 | .mbit25 => 4 | .mbit50 => 2) + 200 ≤ w * stu)) ∧
  [minimumWindow 0 0 .mbit12 100, minimumWindow 0 0 .mbit25 100, minimumWindow 0 0 .mbit50 100,
    minimumWindow 4 0 .mbit25 100, minimumWindow 0 8 .mbit25 100, minimumWindow 16 16 .mbit12 100,
    minimumWindow 16 16 .mbit25 100, minimumWindow 16 16 .mbit50 100] = [11, 7, 5, 10, 12, 52, 27, 15]

/-- R14, R16, R23: with a plan set, a table is valid exactly when every entry passes the checks of R14 and no two lane
entries of one lane whose cycle sets meet are closer than 1 STU. The first entry that fails a check of R14 decides, and
its first failing check gives the code: MARK_RANGE, PERIOD_RANGE, RING_ABSENT (a ring that is not ACTIVE or is closing),
WINDOW_SHORT. Where every entry passes them, the first violating pair of R16 (the later entry in table order, then the
earlier one in table order) gives LANE_OVERLAP with both handles. -/
def Obligations.ValidTablesKeepEveryCheck : Prop :=
  ∀ (s : State) (table : List Entry),
    (s.sc.plan = none → s.validate table = some ⟨.noPlan, 0xFFFF, 0xFFFF⟩) ∧
    (∀ p, s.sc.plan = some p →
      (s.validate table = none ↔
        (∀ e ∈ table,
          (e.kind ≠ .marker → e.mark + e.window ≤ p.bm) ∧ (e.kind = .marker → e.mark < p.bm) ∧ e.period ≤ p.matrix ∧
          (e.kind = .fetch ∨ e.kind = .swap → s.rings[e.ring].state = .active ∧ s.rings[e.ring].closing = none) ∧
          (e.kind ≠ .marker → minimumWindow e.outCount e.inCount s.lanes[e.lane].rate p.stu ≤ e.window)) ∧
        table.Pairwise fun a b =>
          a.kind ≠ .marker → b.kind ≠ .marker → a.lane = b.lane →
            a.phase % min a.period b.period = b.phase % min a.period b.period → a.mark + a.window + 1 ≤ b.mark) ∧
      (∀ e : Entry,
        let range := (e.kind ≠ .marker ∧ p.bm < e.mark + e.window) ∨ (e.kind = .marker ∧ p.bm ≤ e.mark)
        let absent := (e.kind = .fetch ∨ e.kind = .swap) ∧
          (s.rings[e.ring].state ≠ .active ∨ s.rings[e.ring].closing ≠ none)
        let short := e.kind ≠ .marker ∧ e.window < minimumWindow e.outCount e.inCount s.lanes[e.lane].rate p.stu
        (range → s.entryFault p e = some .markRange) ∧
        (¬ range → p.matrix < e.period → s.entryFault p e = some .periodRange) ∧
        (¬ range → e.period ≤ p.matrix → absent → s.entryFault p e = some .ringAbsent) ∧
        (¬ range → e.period ≤ p.matrix → ¬ absent → short → s.entryFault p e = some .windowShort) ∧
        (¬ range → e.period ≤ p.matrix → ¬ absent → ¬ short → s.entryFault p e = none)) ∧
      (∀ pre e post code, table = pre ++ e :: post → (∀ x ∈ pre, s.entryFault p x = none) →
        s.entryFault p e = some code → s.validate table = some ⟨code, e.handle, 0xFFFF⟩) ∧
      (let clash := fun a b : Entry => a.kind ≠ .marker ∧ b.kind ≠ .marker ∧ a.lane = b.lane ∧
          a.phase % min a.period b.period = b.phase % min a.period b.period ∧ b.mark < a.mark + a.window + 1;
        ∀ pre a between b post, table = pre ++ a :: (between ++ b :: post) → (∀ x ∈ table, s.entryFault p x = none) →
          (pre ++ a :: between).Pairwise (fun x y => ¬ clash x y) → (∀ x ∈ pre, ¬ clash x b) → clash a b →
          s.validate table = some ⟨.laneOverlap, a.handle, b.handle⟩))

/-- R13, R17, R19, R20, R21, R54, R129, R130, R133, R173: EDIT COMMIT is refused, with nothing changed, by the first
of: a must-be-zero byte that is not zero, no session, another owner, a commit pending, a violation (whose two handles
are the result). A valid table becomes pending while RUNNING and LOCKED. Else the edit table becomes the active table
at once: a record is carried over where handle and identity agree, else fresh; the session closes; E is computed anew,
also in an open matrix record, which is PARTIAL; deferred STAGEs of records not carried complete ENTRY_REMOVED and then
the command completes OK with the entries and the records carried; the level is evaluated; rings and time stay, and the
lanes but for scheduled firings whose record is not carried over, which reach no record any more. The order of several
ENTRY_REMOVED is log entry 24. -/
def Obligations.EditCommitWaitsOrSwaps : Prop :=
  (∀ (s : State) (h : Held), s.heldCommand 0x06 = some h →
    (reservedZero h.record [] = false → Answers .editCommit s s.taken h .badField 0) ∧
    (reservedZero h.record [] = true →
      (s.session = none → Answers .editCommit s s.taken h .noSession 0) ∧
      (∀ x, s.session = some x → x.owner ≠ h.pair → Answers .editCommit s s.taken h .notOwner 0) ∧
      (∀ x, s.session = some x → x.owner = h.pair → x.commit ≠ none →
        Answers .editCommit s s.taken h .commitPending 0) ∧
      (s.session = some { owner := h.pair, commit := none } →
        (∀ v, s.validate s.edit = some v →
          Answers .editCommit s s.taken h v.status (pack [(v.first, 0), (v.second, 16)])) ∧
        (s.validate s.edit = none → s.dev = .running → s.sc.sync = .locked →
          exec .editCommit s = .next { s.taken with session := some { owner := h.pair, commit := some h.ref } })))) ∧
  (∀ (s : State) (h : Held) (p : Plan), s.heldCommand 0x06 = some h → reservedZero h.record [] = true →
    s.session = some { owner := h.pair, commit := none } → s.sc.plan = some p → s.validate s.edit = none →
    (s.dev ≠ .running ∨ s.sc.sync ≠ .locked) →
    ∃ t, exec .editCommit s = .next t ∧ Swapped s t p ∧ Hands s t (swapCompletions s h.ref) ∧
      t.hm.openRecord = s.hm.openRecord.map (fun m => { m with expected := t.hm.expected, isPartial := true }) ∧
      t.hm.closed = s.hm.closed ∧ t.healthNow = t.hm ∧ Posts s t [] (healthChange s t) ∧
      (∀ l : LaneId, t.lanes[l] =
        { s.lanes[l] with inFlight := (s.lanes[l]).inFlight.map (afterSwap s) }) ∧
      t.rings = s.rings ∧ t.sc = s.sc ∧ t.dev = s.dev ∧ t.cycle = s.cycle)

/-! ### The Cycle Dispatcher (chapter 2) -/

/-- R25, R28, R29: a mark is due exactly while RUNNING and LOCKED with a cycle in hand, for the first entry from the
position on that fires in the cycle, once cycle time has reached its mark (reached or passed: log entry 23); else
MARK_REACHED changes nothing (log entry 2). A MARKER at its mark posts one MARK event with its handle, the cycle count
in hand, the local time and its mark, and the walk moves on, past no entry that fires; nothing else
changes. -/
def Obligations.MarksFallInTableOrder : Prop :=
  (∀ s : State,
    (s.markDue = none → exec .markReached s = .next s) ∧
    (∀ c a, s.markDue = some (c, a) →
      s.dev = .running ∧ s.sc.sync = .locked ∧ a.entry.mark ≤ s.sc.cycleTime ∧ a.entry.fires c.count = true ∧
      s.active[c.position]? = some a ∧
      ∃ d, s.cycle = some d ∧ c.count = d.count ∧ c.tag = d.tag ∧ d.position ≤ c.position ∧
        ∀ i b, d.position ≤ i → i < c.position → s.active[i]? = some b → b.entry.fires c.count = false) ∧
    (∀ (d : CycleInHand) (a : ActiveEntry) (i : Nat), s.dev = .running → s.sc.sync = .locked → s.cycle = some d →
      d.position ≤ i → s.active[i]? = some a → d.count % a.entry.period = a.entry.phase →
      (∀ k b, d.position ≤ k → k < i → s.active[k]? = some b → d.count % b.entry.period ≠ b.entry.phase) →
      a.entry.mark ≤ s.sc.cycleTime → s.markDue = some ({ d with position := i }, a)) ∧
    (∀ (e : Entry) (count : Nat), e.fires count = true ↔ count % e.period = e.phase)) ∧
  (∀ (s : State) (c : CycleInHand) (a : ActiveEntry), s.markDue = some (c, a) → a.entry.kind = .marker →
    ∃ c', exec .markReached s = .next ({ s with cycle := some c' }.postAll
        [{ kind := .mark, subject := BitVec.ofNat 16 a.entry.handle, cycle := c.count, time := s.sc.localTime,
           detail := BitVec.ofNat 32 a.entry.mark }]) ∧
      c'.count = c.count ∧ c'.tag = c.tag ∧ c.position < c'.position ∧
      ∀ k b, c.position < k → k < c'.position → s.active[k]? = some b → c.count % b.entry.period ≠ b.entry.phase)

/-- R28, R30, R31, R33, R35, R37, R38, R85, R124, R125, R129, R132, R134: a lane entry at its mark gets the first
outcome that applies, in the order disabled, lane not READY, lane busy, ring in ERROR, ring full, no values; then no
frame is sent (all that the part puts on its buses is the event record write that may begin with the events, log entry
11), no slot stays reserved, no set is taken, and every lane stays as it was. The outcome is settled at once: scored,
counted in the record of its matrix tag, and posted as ENTRY_OUTCOME where notify asks, with ENTRY_FAILED, HEALTH and a
MATRIX_REPORT where they are due (in the order of log entries 5 and 25); and the walk moves on, past no entry that
fires. -/
def Obligations.FirstFailingCheckGivesTheOutcome : Prop :=
  ∀ (s : State) (c : CycleInHand) (a : ActiveEntry) (o : Verdict), s.markDue = some (c, a) → a.entry.kind ≠ .marker →
    tableLaw s.activeEntries →
    ((a.run.disabled = true ∧ o = .disabled) ∨
      (a.run.disabled = false ∧
        (((s.lanes[a.entry.lane]).state ≠ .ready ∧ o = .laneNotReady) ∨
          ((s.lanes[a.entry.lane]).state = .ready ∧ (s.lanes[a.entry.lane]).inFlight ≠ none ∧ o = .laneBusy) ∨
          ((s.lanes[a.entry.lane]).state = .ready ∧ (s.lanes[a.entry.lane]).inFlight = none ∧
            (((a.entry.kind = .fetch ∨ a.entry.kind = .swap) ∧
                (s.rings[a.entry.ring]).reserve = .error o) ∨
              ((a.entry.kind = .send ∨
                  (a.entry.kind = .swap ∧ ∃ r, (s.rings[a.entry.ring]).reserve = .ok r)) ∧
                a.run.take a.entry.mode = none ∧ o = .noValues)))))) →
    let f : Firing :=
      { handle := a.entry.handle, kind := a.entry.kind, lane := a.entry.lane, outWords := [],
        inCount := a.entry.inCount, ring := a.entry.ring, notify := a.entry.notify, cycle := c.count, tag := c.tag,
        start := s.sc.localTime, attached := true }
    ∃ t, exec .markReached s = .next t ∧ t.lanes = s.lanes ∧ t.rings = s.rings ∧ t.pairs = s.pairs ∧
      t.slotQueue = s.slotQueue ∧ t.sc = s.sc ∧ t.edit = s.edit ∧
      t.active = (s.active.map fun b =>
        if b.entry.handle = a.entry.handle then { b with run := b.run.scored o } else b) ∧
      Settles s t f o 0 false [] ∧
      t.outputs = recordWrite s t ++ s.outputs ∧
      ∃ c', t.cycle = some c' ∧ c'.count = c.count ∧ c'.tag = c.tag ∧ c.position < c'.position ∧
        ∀ k b, c.position < k → k < c'.position → s.active[k]? = some b → c.count % b.entry.period ≠ b.entry.phase

/-- R28, R31, R34, R63, R65, R66, R85, R132, R176, section 11.5: a lane entry that passes its checks starts its
exchange: FETCH and SWAP reserve a slot, SEND and SWAP take a set, and the request goes out with the lane's sequence
number and deadline mark + window in local time, at once also where the request before it may still be on the line (the
model's choice, log entry 45); the firing record stays with the exchange, with the words taken, none for FETCH and
PROBE; the record of its matrix tag has one more exchange in flight, and the walk moves on, past no entry that fires.
The request has the layout of section 11.5: its fields most significant bit first in cells with a transition at
mid-cell, the check over kind to the last out word, and six end cells (whose levels are log entry 26). -/
def Obligations.PassingEntryStartsItsExchange : Prop :=
  (∀ (s : State) (c : CycleInHand) (a : ActiveEntry), s.markDue = some (c, a) → a.entry.kind ≠ .marker →
    tableLaw s.activeEntries → a.run.disabled = false → (s.lanes[a.entry.lane]).state = .ready →
    (s.lanes[a.entry.lane]).inFlight = none →
    (a.entry.kind = .fetch ∨ a.entry.kind = .swap → ∃ r, (s.rings[a.entry.ring]).reserve = .ok r) →
    ∀ (words : List StationWord) (run : Runtime),
      (a.entry.kind = .send ∨ a.entry.kind = .swap → a.run.take a.entry.mode = some (words, run)) →
      (a.entry.kind = .fetch ∨ a.entry.kind = .probe → words = [] ∧ run = a.run) →
      let l := a.entry.lane
      let f : Firing :=
        { handle := a.entry.handle, kind := a.entry.kind, lane := l, outWords := words, inCount := a.entry.inCount,
          ring := a.entry.ring, notify := a.entry.notify, cycle := c.count, tag := c.tag, start := s.sc.localTime,
          attached := true }
      let named := fun m : MatrixRecord => if c.tag = some m.id then { m with inFlight := m.inFlight + 1 } else m
      ∃ t, exec .markReached s = .next t ∧
        t.lanes[l] = { s.lanes[l] with
          sequence := (s.lanes[l]).sequence + 1,
          inFlight := some {
            source := .scheduled f, sequence := (s.lanes[l]).sequence, inCount := a.entry.inCount,
            deadline := .atLocal (s.sc.localTime + BitVec.ofNat 32 a.entry.window), settling := false } } ∧
        OtherLanesKept s t l ∧
        t.outputs = .laneFrame l (s.lanes[l]).rate
          (requestCells a.entry.kind (s.lanes[l]).sequence words a.entry.inCount) :: s.outputs ∧
        (a.entry.kind = .fetch ∨ a.entry.kind = .swap → t.rings[a.entry.ring] =
          { s.rings[a.entry.ring] with reserved := (s.rings[a.entry.ring]).reserved + 1 }) ∧
        (a.entry.kind = .send ∨ a.entry.kind = .probe → t.rings = s.rings) ∧
        (∀ r : RingId, r ≠ a.entry.ring → t.rings[r] = s.rings[r]) ∧
        t.active = (s.active.map fun b => if b.entry.handle = a.entry.handle then { b with run := run } else b) ∧
        t.hm = { s.hm with openRecord := s.hm.openRecord.map named, closed := s.hm.closed.map named } ∧
        (∃ c', t.cycle = some c' ∧ c'.count = c.count ∧ c'.tag = c.tag ∧ c.position < c'.position ∧
          ∀ k b, c.position < k → k < c'.position → s.active[k]? = some b → c.count % b.entry.period ≠ b.entry.phase) ∧
        t.pairs = s.pairs ∧ t.sc = s.sc ∧ t.ew = s.ew ∧ t.edit = s.edit) ∧
  (∀ (kind : Kind) (n : Byte) (words : List StationWord) (inCount : Nat), words.length ≤ 16 → inCount ≤ 16 →
    IsRequest (requestCells kind n words inCount) kind n words inCount)

/-! ### Outbound values (chapter 3) -/

/-- R45, R46, R47: STAGE VALUES is refused by the first of its checks that applies, with nothing changed; else its words
go into the pending slot. Without confirm it answers OK with the two flags, and ends only a STAGED deferred STAGE; with
confirm it becomes the deferred STAGE, answers nothing yet, and ends any. A STAGE it ends completes SUPERSEDED, before
the command's own OK. -/
def Obligations.StageValuesFillsThePendingSlot : Prop :=
  (∀ (s : State) (h : Held), s.heldCommand 0x10 = some h →
    let count := recordByte h.record 9
    (count = 0 ∨ 16 < count ∨ 1 < recordByte h.record 10 ∨ reservedZero h.record ([(8, 10)] ++ wordBytes count) = false →
      Answers .stageValues s s.taken h .badField 0) ∧
    (1 ≤ count → count ≤ 16 → recordByte h.record 10 ≤ 1 →
      reservedZero h.record ([(8, 10)] ++ wordBytes count) = true →
      (s.findActive (recordByte h.record 8) = none → Answers .stageValues s s.taken h .noEntry 0) ∧
      (∀ a, s.findActive (recordByte h.record 8) = some a →
        (a.entry.kind ≠ .send → a.entry.kind ≠ .swap → Answers .stageValues s s.taken h .wrongKind 0) ∧
        (a.entry.kind = .send ∨ a.entry.kind = .swap → count ≠ a.entry.outCount →
          Answers .stageValues s s.taken h .countMismatch 0)))) ∧
  (∀ (s : State) (h : Held) (a : ActiveEntry), s.heldCommand 0x10 = some h →
    s.findActive (recordByte h.record 8) = some a → a.entry.kind = .send ∨ a.entry.kind = .swap →
    recordByte h.record 9 = a.entry.outCount → 1 ≤ a.entry.outCount → a.entry.outCount ≤ 16 →
    reservedZero h.record ([(8, 10)] ++ wordBytes (recordByte h.record 9)) = true →
    let words := (List.range a.entry.outCount).map (recordWord h.record)
    let staged := fun d : Option DeferredStage =>
      s.taken.updateRun (recordByte h.record 8) fun x => { x with waiting := some words, stage := d }
    let replaced := if a.run.waiting.isSome then 1 else 0
    (∀ b ∈ s.active, b.entry.handle = a.entry.handle → b = a) →
    (recordByte h.record 10 = 0 →
      (a.run.stage = none → Answers .stageValues s (staged none) h .ok (BitVec.ofNat 32 replaced)) ∧
      (∀ ref, a.run.stage = some ⟨ref, true⟩ →
        Answers .stageValues s (staged (some ⟨ref, true⟩)) h .ok (BitVec.ofNat 32 replaced)) ∧
      (∀ ref, a.run.stage = some ⟨ref, false⟩ →
        Answers .stageValues s ((staged none).complete ref .superseded 0) h .ok (BitVec.ofNat 32 (replaced + 2)))) ∧
    (recordByte h.record 10 = 1 →
      (a.run.stage = none → exec .stageValues s = .next (staged (some ⟨h.ref, false⟩))) ∧
      (∀ d, a.run.stage = some d →
        exec .stageValues s = .next ((staged (some ⟨h.ref, false⟩)).complete d.ref .superseded 0))))

/-- R53: ENTRY CLEAR VALUES empties both slots and cancels a deferred STAGE, whose CANCELLED precedes its own OK with the
three flags; score and flag of the entry stay. It is refused by the first of its checks that applies. -/
def Obligations.ClearValuesEmptiesBothSlots : Prop :=
  ∀ (s : State) (h : Held), s.heldCommand 0x11 = some h →
    (reservedZero h.record [(8, 8)] = false → Answers .entryClearValues s s.taken h .badField 0) ∧
    (reservedZero h.record [(8, 8)] = true →
      (s.findActive (recordByte h.record 8) = none → Answers .entryClearValues s s.taken h .noEntry 0) ∧
      (∀ a, s.findActive (recordByte h.record 8) = some a →
        (a.entry.kind ≠ .send → a.entry.kind ≠ .swap → Answers .entryClearValues s s.taken h .wrongKind 0) ∧
        (a.entry.kind = .send ∨ a.entry.kind = .swap →
          let cleared := s.taken.updateRun (recordByte h.record 8) fun x =>
            { score := x.score, disabled := x.disabled, waiting := none, current := none, stage := none }
          let held := (if a.run.waiting.isSome then 1 else 0) + (if a.run.current.isSome then 2 else 0)
          (a.run.stage = none → Answers .entryClearValues s cleared h .ok (BitVec.ofNat 32 held)) ∧
          (∀ d, a.run.stage = some d →
            Answers .entryClearValues s (cleared.complete d.ref .cancelled 0) h .ok (BitVec.ofNat 32 (held + 4))))))

/-- R37, R48, R49, R50, R52: a take gives the pending set, which becomes the current one, and makes a STAGED deferred
STAGE ON_WIRE; with the pending slot empty a HOLD entry gives its current set again and changes nothing, and every other
case gives none. The settled outcome of the firing that took a set reaches the record its handle holds: a ONE_SHOT
current slot is emptied, an ON_WIRE deferred STAGE completes OK for DONE and EXCHANGE_FAILED otherwise with the outcome
code and the cycle count, and a STAGED one and the pending slot stay. A record that was not carried over is not reached
(R21). -/
def Obligations.TakenSetsAndTheirOutcome : Prop :=
  (∀ (r : Runtime) (mode : ValueMode),
    (∀ v, r.waiting = some v →
      r.take mode = some (v, { r with
        waiting := none, current := some v, stage := r.stage.map fun d => { d with onWire := true } })) ∧
    (r.waiting = none → mode = .hold → ∀ v, r.current = some v → r.take mode = some (v, r)) ∧
    (r.waiting = none → (mode ≠ .hold ∨ r.current = none) → r.take mode = none)) ∧
  (∀ (s : State) (f : Firing) (o : Verdict),
    (f.attached = false → s.settleValues f o = s) ∧
    (f.attached = true → ∀ a, s.findActive f.handle = some a →
      let after := fun d : Option DeferredStage => s.updateRun f.handle fun x =>
        { x with current := if a.entry.mode = .oneShot then none else x.current, stage := d }
      (∀ b ∈ s.active, b.entry.handle = a.entry.handle → b = a) →
      (a.run.stage = none → s.settleValues f o = after none) ∧
      (∀ ref, a.run.stage = some ⟨ref, false⟩ → s.settleValues f o = after (some ⟨ref, false⟩)) ∧
      (∀ ref, a.run.stage = some ⟨ref, true⟩ →
        s.settleValues f o =
          (after none).complete ref (if o = .done then .ok else .exchangeFailed)
            (BitVec.ofNat 32 (o.code + 256 * f.cycle)))))

/-! ### Station links (chapter 4) -/

/-- R36, R60, R61, R62, R80, R82, R129: LANE CONFIGURE is refused with BAD_FIELD for a lane, flag, rate or delay it
does not accept or a must-be-zero byte that is not zero, and with IN_USE for a new rate of a lane that a lane entry of
the active table names, or one of the edit table while a commit is pending. Else it sets the five settings of its lane
and moves its state: OFF without enable; TRAINING from OFF, and at a new rate; as it was otherwise, the retrain timer
of a FAULTED lane starting as auto-retrain is switched on and stopping as it is switched off. At a new rate the counts
of the new run are 0 at once, whatever is in flight, and a probe of the old run in flight is abandoned, the rest of its
exchange staying (R74, log entry 27). Entering OFF clears counts, queue, timer and waiting TRAIN LANE, and abandons
what is in flight: a scheduled exchange is settled NO_REPLY with its reservation returned, a host exchange completes
EXCHANGE_FAILED with NO_REPLY, a probe is dropped; one that waits for its slot write stays. What is on the line of a
request is not cut (log entry 39). Its completion, LANE_NOT_READY oldest first and a waiting TRAIN LANE's CANCELLED
precede the OK, which shows the state after the command. A change of state posts LANE_STATE with its cause, after the
outcome of an exchange that disabling ends (log entry 40), and has the level evaluated; what the Health Monitor posts
of a settlement comes in the order of log entry 25. Other lanes stay. -/
def Obligations.LaneConfigureSetsTheLane : Prop :=
  (∀ (s : State) (h : Held), s.heldCommand 0x20 = some h → h.pair = 0 →
    (7 < recordByte h.record 8 ∨ 1 < recordByte h.record 9 ∨ recordByte h.record 10 ∉ [1, 2, 3] ∨
      1 < recordByte h.record 11 ∨ recordByte h.record 12 = 0 ∨ 1 < recordByte h.record 13 ∨
      reservedZero h.record [(8, 13)] = false) →
    Answers .laneConfigure s s.taken h .badField 0) ∧
  (∀ (s : State) (h : Held) (l : LaneId) (rate : LaneRate), s.heldCommand 0x20 = some h → h.pair = 0 →
    recordByte h.record 8 = l.val → recordByte h.record 9 ≤ 1 → rateOfCode (recordByte h.record 10) = some rate →
    recordByte h.record 11 ≤ 1 → 1 ≤ recordByte h.record 12 → recordByte h.record 13 ≤ 1 →
    reservedZero h.record [(8, 13)] = true →
    let inUse := (∃ a ∈ s.active, a.entry.kind ≠ .marker ∧ a.entry.lane = l) ∨
      (s.pendingCommit ≠ none ∧ ∃ e ∈ s.edit, e.kind ≠ .marker ∧ e.lane = l)
    (rate ≠ (s.lanes[l]).rate → inUse → Answers .laneConfigure s s.taken h .inUse 0) ∧
    (rate = (s.lanes[l]).rate ∨ ¬ inUse →
      let abandoned := fun x : Exchange => match x.source with | .probe _ => { x with source := .probe false } | _ => x
      let enable := recordByte h.record 9 = 1
      let auto := recordByte h.record 11 = 1
      let before := s.lanes[l]
      let set := { before with
        rate := rate, autoRetrain := decide (recordByte h.record 11 = 1), retrainDelay := recordByte h.record 12,
        staleNotify := decide (recordByte h.record 13 = 1) }
      let run := { set with
        state := .training, failures := 0, probesSent := 0, goodRun := 0, probeWait := 0, retrainTimer := none,
        inFlight := before.inFlight.map abandoned }
      let refused : List Completion := before.queue.map fun q => ⟨q.exchange.ref, .laneNotReady, 0⟩
      let cancelled : List Completion := before.waitingTrain.toList.map fun ref => ⟨ref, .cancelled, 0⟩
      let off := fun x : Option Exchange => { set with
        state := .off, queue := [], waitingTrain := none, retrainTimer := none, probesSent := 0, goodRun := 0,
        probeWait := 0, sequence := 0, failures := 0, receiver := .idle, inFlight := x }
      ∃ t, exec .laneConfigure s = .next t ∧
        (let answer : Completion := ⟨h.ref, .ok, BitVec.ofNat 32 (t.lanes[l]).state.code⟩;
          (enable → before.state = .off → t.lanes[l] = run ∧ Posts s t [laneStateEvent s l .training 1] (healthChange s t) ∧
            Evaluated s t ∧ Hands s t [answer]) ∧
          (¬ enable → before.state = .off → t.lanes[l] = set ∧ t.ew = s.ew ∧ t.hm = s.hm ∧ Hands s t [answer]) ∧
          (enable → before.state ≠ .off → rate = before.rate → t.ew = s.ew ∧ t.hm = s.hm ∧ Hands s t [answer] ∧
            t.lanes[l] = { set with retrainTimer := (t.lanes[l]).retrainTimer } ∧
            (before.state ≠ .faulted → (t.lanes[l]).retrainTimer = before.retrainTimer) ∧
            (before.state = .faulted →
              (¬ auto → (t.lanes[l]).retrainTimer = none) ∧
              (auto → before.autoRetrain = false → before.retrainTimer = none →
                (t.lanes[l]).retrainTimer = some (recordByte h.record 12 * 100000)) ∧
              (auto → before.autoRetrain = true ∨ before.retrainTimer ≠ none →
                (t.lanes[l]).retrainTimer = before.retrainTimer))) ∧
          (enable → before.state ≠ .off → rate ≠ before.rate → t.lanes[l] = run ∧ Hands s t [answer] ∧
            (before.state = .training → t.ew = s.ew ∧ t.hm = s.hm) ∧
            (before.state ≠ .training → Posts s t [laneStateEvent s l .training 8] (healthChange s t) ∧ Evaluated s t)) ∧
          (¬ enable → before.state ≠ .off →
            (before.inFlight = none →
              t.lanes[l] = off none ∧ Hands s t (refused ++ cancelled ++ [answer])) ∧
            (∀ x, before.inFlight = some x → x.settling = true →
              t.lanes[l] = off (some x) ∧ Hands s t (refused ++ cancelled ++ [answer])) ∧
            (∀ x b, before.inFlight = some x → x.settling = false → x.source = .probe b →
              t.lanes[l] = off none ∧ Hands s t (refused ++ cancelled ++ [answer])) ∧
            (∀ x e, before.inFlight = some x → x.settling = false → x.source = .host e →
              t.lanes[l] = off none ∧
              Hands s t (({ ref := e.ref, status := .exchangeFailed,
                            result := BitVec.ofNat 32 (5 + 256 * x.sequence.toNat) } :: refused) ++ cancelled ++
                [answer])) ∧
            (∀ x f, before.inFlight = some x → x.settling = false → x.source = .scheduled f →
              tableLaw s.activeEntries → t.lanes[l] = off none ∧
              t.healthNow = t.hm ∧ SettlesAndChanges s t f .noReply (laneStateEvent s l .off 2) (refused ++ cancelled ++ [answer]) ∧
              (f.kind = .fetch ∨ f.kind = .swap → t.rings[f.ring] = { s.rings[f.ring] with
                reserved := (s.rings[f.ring]).reserved - 1 }) ∧
              (f.kind = .send ∨ f.kind = .probe → t.rings = s.rings) ∧
              (∀ r : RingId, r ≠ f.ring → t.rings[r] = s.rings[r])) ∧
            ((∀ x f, before.inFlight = some x → x.source = .scheduled f → x.settling = true) →
              Posts s t [laneStateEvent s l .off 2] (healthChange s t) ∧ Evaluated s t)) ∧
          (enable ∨ before.state = .off ∨
              (∀ x f, before.inFlight = some x → x.source = .scheduled f → x.settling = true) →
            t.active = s.active ∧ t.rings = s.rings ∧ t.hm.openRecord = s.hm.openRecord ∧ t.hm.closed = s.hm.closed) ∧
          OtherLanesKept s t l ∧ t.activeEntries = s.activeEntries ∧ t.edit = s.edit ∧ t.session = s.session ∧
          (∃ sent, t.outputs = sent ++ s.outputs ∧ ∀ m r cells, Output.laneFrame m r cells ∉ sent) ∧
          t.slotQueue = s.slotQueue ∧ t.buffers = s.buffers ∧ t.sc = s.sc ∧ t.dev = s.dev)))

/-- R74, R82, R129: TRAIN LANE begins a training run on a lane that is not OFF and becomes its waiting TRAIN LANE, an
earlier one completing SUPERSEDED, by which no other pair moves; it answers nothing itself. The run's counts are 0 at
once, no interval runs, and a probe of the old run in flight is abandoned, the rest of its exchange staying (log entry
27). From READY or FAULTED LANE_STATE is posted and the level evaluated. That the write of the event record, and the
completion write of SUPERSEDED, begin in this very step where none is in progress is the model's choice (log entry 11).
A lane that is OFF refuses it. -/
def Obligations.TrainLaneBeginsARun : Prop :=
  ∀ (s : State) (h : Held), s.heldCommand 0x21 = some h →
    (7 < recordByte h.record 8 ∨ reservedZero h.record [(8, 8)] = false →
      Answers .trainLane s s.taken h .badField 0) ∧
    (∀ l : LaneId, recordByte h.record 8 = l.val → reservedZero h.record [(8, 8)] = true →
      ((s.lanes[l]).state = .off → Answers .trainLane s s.taken h .wrongState 0) ∧
      ((s.lanes[l]).state ≠ .off →
        let abandoned := fun x : Exchange => match x.source with | .probe _ => { x with source := .probe false } | _ => x
        ∃ t, exec .trainLane s = .next t ∧
        t.lanes[l] =
          { s.lanes[l] with
            state := .training, failures := 0, probesSent := 0, goodRun := 0, probeWait := 0, retrainTimer := none,
            inFlight := (s.lanes[l]).inFlight.map abandoned, waitingTrain := some h.ref } ∧
        OtherLanesKept s t l ∧
        Hands s t ((s.lanes[l]).waitingTrain.toList.map fun old => ⟨old, .superseded, 0⟩) ∧
        (∀ old, (s.lanes[l]).waitingTrain = some old →
          t.pairs = (s.complete old .superseded 0).pairs ∧
          t.outputs = recordWrite s t ++ (s.complete old .superseded 0).outputs) ∧
        ((s.lanes[l]).waitingTrain = none → t.pairs = s.pairs ∧ t.outputs = recordWrite s t ++ s.outputs) ∧
        ((s.lanes[l]).state = .training → t.ew = s.ew ∧ t.hm = s.hm) ∧
        ((s.lanes[l]).state ≠ .training →
          Posts s t [laneStateEvent s l .training 7] (healthChange s t) ∧ Evaluated s t) ∧
        t.active = s.active ∧ t.edit = s.edit ∧ t.rings = s.rings ∧ t.sc = s.sc ∧ t.cycle = s.cycle))

/-- R39, R63, R65, R66, R76, R78, R176, section 11.5: LANE EXCHANGE is refused by the first of its checks that applies,
with nothing changed; else it joins the end of its lane's queue with a give-up count of 0 and answers nothing yet. The
oldest waiting host exchange starts exactly when it may: its request carries the lane's sequence number, which then goes
up by one and wraps, and the exchange is the lane's one in flight. Unfitted it may start on a READY idle lane; fitted,
the outlook must also leave its window: the mark of the first entry not yet acted for that fires on the lane, or BM
where none does. It is R39's least mark later than cycle time where every mark reached has been acted for; that a mark
reached and not yet acted for is taken too, against the letter of R39, is the model's choice (log entry 23). Its
deadline is local time plus window while the time base runs, else counted in clocks, 100 for an STU without a plan. The
frame goes out at once also where the lane's last request may still be on the line, and the levels of its end cells in
IsRequest are as read: both are the model's (log entries 45 and 26). HOST_EXCHANGE_START presented when it may not
changes nothing (log entry 2). -/
def Obligations.HostExchangesQueueAndStart : Prop :=
  (∀ (s : State) (h : Held) (l : LaneId) (k : Kind), s.heldCommand 0x22 = some h →
    recordByte h.record 8 = l.val → kindOfCode (recordByte h.record 9) = some k →
    let o := recordByte h.record 10
    let i := recordByte h.record 11
    let w := recordField16 h.record 12
    let stu := match s.sc.plan with | some p => p.stu | none => 100
    let fits := k ≠ .marker ∧ (if k = .send ∨ k = .swap then 1 ≤ o ∧ o ≤ 16 else o = 0) ∧
      (if k = .fetch ∨ k = .swap then 1 ≤ i ∧ i ≤ 16 else i = 0) ∧ 4 ≤ w ∧ w ≤ 4095 ∧
      reservedZero h.record ([(8, 13), (16, 23)] ++ wordBytes o) = true
    (¬ fits → Answers .laneExchange s s.taken h .badField 0) ∧
    (fits →
      (w < minimumWindow o i (s.lanes[l]).rate stu → Answers .laneExchange s s.taken h .windowShort 0) ∧
      (minimumWindow o i (s.lanes[l]).rate stu ≤ w →
        ((s.lanes[l]).state ≠ .ready → Answers .laneExchange s s.taken h .laneNotReady 0) ∧
        ((s.lanes[l]).state = .ready →
          (4 ≤ (s.lanes[l]).queue.length → Answers .laneExchange s s.taken h .queueFull 0) ∧
          ((s.lanes[l]).queue.length < 4 →
            exec .laneExchange s = .next (s.taken.setLane l { s.lanes[l] with
              queue := (s.lanes[l]).queue ++ [{
                exchange := { ref := h.ref, kind := k, outWords := recordWords h.record o, inCount := i, window := w,
                              address := recordAddress h.record 16 },
                giveUps := 0 }] })))))) ∧
  (∀ (s : State) (h : Held), s.heldCommand 0x22 = some h →
    (7 < recordByte h.record 8 ∨ recordByte h.record 9 ∉ [1, 2, 3, 4]) → Answers .laneExchange s s.taken h .badField 0) ∧
  (∀ (s : State) (l : LaneId),
    (s.hostMayStart l = false → exec (.hostExchangeStart l) s = .next s) ∧
    (∀ q rest, (s.lanes[l]).queue = q :: rest →
      (s.hostMayStart l = true ↔ s.serving = true ∧ (s.lanes[l]).state = .ready ∧ (s.lanes[l]).inFlight = none ∧
        (s.dev = .running → s.sc.sync = .locked →
          ∃ c, s.cycle = some c ∧ q.exchange.window + s.sc.cycleTime ≤ s.outlook c l)) ∧
      (s.hostMayStart l = true →
        let cells := requestCells q.exchange.kind (s.lanes[l]).sequence q.exchange.outWords q.exchange.inCount
        exec (.hostExchangeStart l) s = .next
          ((s.setLane l { s.lanes[l] with
              queue := rest, sequence := (s.lanes[l]).sequence + 1,
              inFlight := some {
                source := .host q.exchange, sequence := (s.lanes[l]).sequence, inCount := q.exchange.inCount,
                deadline := s.hostDeadline q.exchange, settling := false } }).emit
            (.laneFrame l (s.lanes[l]).rate cells)) ∧
        (q.exchange.outWords.length ≤ 16 → q.exchange.inCount ≤ 16 →
          IsRequest cells q.exchange.kind (s.lanes[l]).sequence q.exchange.outWords q.exchange.inCount)))) ∧
  (∀ (s : State) (l : LaneId) (c : CycleInHand) (p : Plan), s.sc.plan = some p →
    let fires := fun a : ActiveEntry => a.entry.kind ≠ .marker ∧ a.entry.lane = l ∧ c.count % a.entry.period = a.entry.phase
    let next := fun a : ActiveEntry => fires a ∧ s.sc.cycleTime < a.entry.mark
    (∀ i a, c.position ≤ i → s.active[i]? = some a → fires a →
      (∀ k b, c.position ≤ k → k < i → s.active[k]? = some b → ¬ fires b) → s.outlook c l = a.entry.mark) ∧
    ((∀ i a, c.position ≤ i → s.active[i]? = some a → ¬ fires a) → s.outlook c l = p.bm) ∧
    (tableLaw s.activeEntries →
      (∀ i a, s.active[i]? = some a → fires a → (i < c.position ↔ a.entry.mark ≤ s.sc.cycleTime)) →
      (∀ a ∈ s.active, next a → (∀ b ∈ s.active, next b → a.entry.mark ≤ b.entry.mark) →
        s.outlook c l = a.entry.mark) ∧
      ((∀ a ∈ s.active, ¬ next a) → s.outlook c l = p.bm))) ∧
  (∀ (s : State) (e : HostExchange),
    (s.dev = .running ∨ s.dev = .halted → s.hostDeadline e = .atLocal (s.sc.localTime + BitVec.ofNat 32 e.window)) ∧
    (s.dev ≠ .running → s.dev ≠ .halted →
      s.hostDeadline e = .inClocks (e.window * match s.sc.plan with | some p => p.stu | none => 100)))

/-- R65, R66, R71, R72, R82, R129: in TRAINING a probe goes out on an idle lane when its time has come and fewer than 64
have been sent, the run's first with sequence number 0; the next is due 256 microseconds after it and its deadline is 64
microseconds. When the retrain timer of a FAULTED lane runs out, the lane enters TRAINING, LANE_STATE is posted, the
level is evaluated and a run begins, with its counts at 0 and a probe of the old run in flight abandoned, the rest of
its exchange staying (R74, log entry 27); other lanes stay. That the write of the event record begins in this very step
where none is in progress is the model's choice (log entry 11), and so is that a probe goes out at once where an earlier
request may still be on the line (log entry 45). A probe or an expiry that is not due changes nothing (log entry 2). -/
def Obligations.ProbesAndRetrainingAtTheirTime : Prop :=
  (∀ (s : State) (l : LaneId), s.serving = true →
    ((s.lanes[l]).state = .training → (s.lanes[l]).inFlight = none → (s.lanes[l]).probeWait = 0 →
      (s.lanes[l]).probesSent < 64 →
      let n := if (s.lanes[l]).probesSent = 0 then 0 else (s.lanes[l]).sequence
      exec (.probeInterval l) s = .next
        ((s.setLane l { s.lanes[l] with
            probesSent := (s.lanes[l]).probesSent + 1, probeWait := 25600, sequence := n + 1,
            inFlight := some { source := .probe true, sequence := n, inCount := 0, deadline := .inClocks 6400,
                               settling := false } }).emit
          (.laneFrame l (s.lanes[l]).rate (requestCells .probe n [] 0)))) ∧
    ((s.lanes[l]).state ≠ .training ∨ (s.lanes[l]).inFlight ≠ none ∨ (s.lanes[l]).probeWait ≠ 0 ∨
      (s.lanes[l]).probesSent = 64 → exec (.probeInterval l) s = .next s)) ∧
  (∀ (s : State) (l : LaneId), s.serving = true →
    ((s.lanes[l]).state = .faulted → (s.lanes[l]).retrainTimer = some 0 →
      let abandoned := fun x : Exchange => match x.source with | .probe _ => { x with source := .probe false } | _ => x
      ∃ t, exec (.retrainTimerExpiry l) s = .next t ∧
        t.lanes[l] =
          { s.lanes[l] with
            state := .training, failures := 0, probesSent := 0, goodRun := 0, probeWait := 0, retrainTimer := none,
            inFlight := (s.lanes[l]).inFlight.map abandoned } ∧
        Posts s t [laneStateEvent s l .training 6] (healthChange s t) ∧ Evaluated s t ∧
        t.outputs = recordWrite s t ++ s.outputs ∧
        OtherLanesKept s t l ∧ t.pairs = s.pairs ∧ t.active = s.active ∧ t.rings = s.rings ∧ t.sc = s.sc) ∧
    ((s.lanes[l]).state ≠ .faulted ∨ (s.lanes[l]).retrainTimer ≠ some 0 →
      exec (.retrainTimerExpiry l) s = .next s))

/-- R64, R67, R176, section 11.5: the cells of a frame give back its bits between start pattern and first end cell
exactly when its fourth end cell has come with the last of them (log entry 37); cells that do not begin with the start
pattern are no reply. A reply built as the format gives, with status OK, is judged DONE by the exchange that sent its
sequence number and asked for its count, and gives its words in order; another sequence number or count is BAD_REPLY. A
wrong check is BAD_CHECK whatever else the reply holds, and a reply with one of its bits inverted has a wrong check. With
a good check, a status of 3 to 7, a word count above 16, a length that does not agree with the count, or BUSY or FAULT
with words is BAD_REPLY, before the echo is looked at, as is BUSY or FAULT with another echo. A reply too short to hold a
check has a wrong one (log entry 21). -/
def Obligations.RepliesAreJudgedByTheirFormat : Prop :=
  (∀ (bits : List Bool) (k : Nat),
    replyOf (lineCells (lanePattern ++ bits) k) = if k = 4 then some bits else none) ∧
  (∀ cells : List LineCell, cells.take 16 ≠
      ([true, false, true, false, true, false, true, false, true, false, true, false, true, false, true, true].map
        fun b => (!b, b)) → replyOf cells = none) ∧
  (∀ (n m : Byte) (words : List StationWord), words.length ≤ 16 →
    replyOf (replyCells n 0 words) = some (replyFrame n 0 words) ∧
    judgeReply n words.length (replyFrame n 0 words) = .done ∧ replyWords (replyFrame n 0 words) = words ∧
    (n ≠ m → judgeReply m words.length (replyFrame n 0 words) = .badReply) ∧
    (∀ i, i ≠ words.length → judgeReply n i (replyFrame n 0 words) = .badReply) ∧
    (∀ i, judgeReply n i (replyFrame n 1 []) = .stationBusy ∧ judgeReply n i (replyFrame n 2 []) = .stationFault) ∧
    (∀ i, n ≠ m → judgeReply m i (replyFrame n 1 []) = .badReply ∧ judgeReply m i (replyFrame n 2 []) = .badReply)) ∧
  (∀ (n m : Byte) (status count i : Nat) (rest : List Bool), status < 8 → count < 32 →
    let body := msbBits 8 n.toNat ++ msbBits 3 status ++ msbBits 5 count ++ rest
    let frame := body ++ msbBits 16 (checkOf body).toNat
    checkGood frame = true ∧
    (3 ≤ status ∨ 16 < count ∨ rest.length ≠ 16 * count ∨ ((status = 1 ∨ status = 2) ∧ count ≠ 0) →
      judgeReply m i frame = .badReply)) ∧
  (∀ (n : Byte) (i : Nat) (bits : List Bool), checkGood bits = true → bits.length < 32 →
    judgeReply n i bits = .badReply) ∧
  (∀ (n : Byte) (i : Nat) (bits : List Bool), checkGood bits = false → judgeReply n i bits = .badCheck) ∧
  (∀ bits : List Bool, bits.length < 16 → checkGood bits = false) ∧
  (∀ (bits : List Bool) (k : Nat) (b : Bool), checkGood bits = true → bits[k]? = some b →
    checkGood (bits.set k (!b)) = false)

/-- R36, R37, R38, R66, R68, R70, R75, R86, R88, R124, R132: a scheduled exchange that is judged anything but a DONE with
words leaves its lane, returns its reservation, and is settled with its judgment: scored, counted out of its matrix
record's exchanges in flight, handed to the value slots, and posted where notify asks (in the order of log entries 5
and 25). A reply still arriving at the deadline is cut off. The failure count follows the judgment on a READY lane, fewer
than six in a row keeping it READY, and stays on a TRAINING one. A FETCH or SWAP judged DONE hands its words to the write
queue and stays in flight, not settled, its reservation kept. -/
def Obligations.ScheduledExchangesConclude : Prop :=
  (∀ (c : Instr) (s : State) (l : LaneId) (x : Exchange) (f : Firing) (j : Verdict) (words : List StationWord),
    Concludes c s l x j words → x.source = .scheduled f → (j ≠ .done ∨ f.kind = .send ∨ f.kind = .probe) →
    ((s.lanes[l]).state = .ready → j = .noReply ∨ j = .badCheck ∨ j = .badReply → (s.lanes[l]).failures ≤ 4) →
    tableLaw s.activeEntries →
    ∃ t, exec c s = .next t ∧
      t.lanes[l] = { s.lanes[l] with
        inFlight := none, receiver := receiverAfter c s l, failures := failuresAfter s.lanes[l] j } ∧
      OtherLanesKept s t l ∧
      (f.kind = .fetch ∨ f.kind = .swap → t.rings[f.ring] = { s.rings[f.ring] with
        reserved := (s.rings[f.ring]).reserved - 1 }) ∧
      (f.kind = .send ∨ f.kind = .probe → t.rings = s.rings) ∧
      (∀ r : RingId, r ≠ f.ring → t.rings[r] = s.rings[r]) ∧
      (f.attached = false → t.active = s.active) ∧
      (f.attached = true → t.active = s.active.map fun a =>
        if a.entry.handle = f.handle then
          { a with run := if f.kind = .send ∨ f.kind = .swap then (a.run.scored j).settled a.entry.mode
                          else a.run.scored j }
        else a) ∧
      Settles s t f j 0 true [] ∧
      t.slotQueue = s.slotQueue ∧ t.edit = s.edit ∧ t.session = s.session ∧ t.sc = s.sc ∧ t.cycle = s.cycle ∧
      t.dev = s.dev) ∧
  (∀ (c : Instr) (s : State) (l : LaneId) (x : Exchange) (f : Firing) (words : List StationWord),
    Concludes c s l x .done words → x.source = .scheduled f → (f.kind = .fetch ∨ f.kind = .swap) →
    ∃ t, exec c s = .next t ∧ t.slotQueue = s.slotQueue ++ [⟨l, words⟩] ∧
      t.lanes[l] = { s.lanes[l] with
        inFlight := some { x with settling := true }, receiver := .idle, failures := failuresAfter s.lanes[l] .done } ∧
      OtherLanesKept s t l ∧ t.rings = s.rings ∧ t.active = s.active ∧ t.pairs = s.pairs ∧ t.hm = s.hm ∧ t.ew = s.ew ∧
      t.sc = s.sc)

/-- R68, R70, R75, R79, R80, R148: a host exchange that concludes leaves its lane, whose failure count follows the
judgment if it is READY and stays if it is TRAINING. Judged anything but DONE it completes EXCHANGE_FAILED with judgment
and sequence number and no words are written: all that goes out is the completion's own record, at once where none of
its pair is being written (that its write begins in this very step is the model's choice, log entry 11: R148 gives no
moment); a DONE SEND or PROBE completes OK; a DONE FETCH or SWAP of a pair that serves first writes its words to its
address, and its completion follows that write. For a pair in ERROR or deleting no words are written, and the command is
retired without a record. A reply still arriving at the deadline is cut off. -/
def Obligations.HostExchangeCompletesItsCommand : Prop :=
  ∀ (c : Instr) (s : State) (l : LaneId) (x : Exchange) (e : HostExchange) (j : Verdict) (words : List StationWord),
    Concludes c s l x j words → x.source = .host e →
    ((s.lanes[l]).state = .ready → j = .noReply ∨ j = .badCheck ∨ j = .badReply → (s.lanes[l]).failures ≤ 4) →
    let result := BitVec.ofNat 32 (j.code + 256 * x.sequence.toNat)
    let sends := fun status : Status =>
      if s.pairs[e.ref.pair].writing.isSome then s.outputs
      else s.pairs[e.ref.pair].beginsWith ⟨e.ref, status, result⟩ :: s.outputs
    ∃ t, exec c s = .next t ∧
      t.lanes[l] = { s.lanes[l] with
        inFlight := none, receiver := receiverAfter c s l, failures := failuresAfter s.lanes[l] j } ∧
      OtherLanesKept s t l ∧ t.active = s.active ∧ t.rings = s.rings ∧ t.hm = s.hm ∧ t.ew = s.ew ∧ t.sc = s.sc ∧
      (∀ p : PairId, p ≠ e.ref.pair → t.pairs[p] = s.pairs[p]) ∧
      (s.pairs[e.ref.pair].serves = true →
        (j ≠ .done → t.buffers = s.buffers ∧ Hands s t [⟨e.ref, .exchangeFailed, result⟩] ∧
          t.outputs = sends .exchangeFailed) ∧
        (j = .done → e.kind = .send ∨ e.kind = .probe → t.buffers = s.buffers ∧ Hands s t [⟨e.ref, .ok, result⟩] ∧
          t.outputs = sends .ok) ∧
        (j = .done → e.kind = .fetch ∨ e.kind = .swap →
          t.buffers = s.buffers ++ [{ ref := e.ref, result := result, report := false }] ∧
          t.outputs = .dmaWrite e.address (words.flatMap fun w => leBytes 2 w.toNat) :: s.outputs ∧
          t.pairs = s.pairs)) ∧
      (s.pairs[e.ref.pair].serves = false → t.buffers = s.buffers ∧ t.outputs = s.outputs ∧
        t.pairs[e.ref.pair] = { s.pairs[e.ref.pair] with
          outstanding := s.pairs[e.ref.pair].outstanding - 1,
          deleting := s.pairs[e.ref.pair].deleting.map fun d => { d with retired := d.retired + 1 } })

/-- R68, R71, R73, R74, R82, R129: a probe of the present run: the fourth good one in a row brings the lane to READY
and completes a waiting TRAIN LANE OK; any other good one adds to the run, any other judgment ends it; the 64th that is
not the fourth good faults the lane, a waiting TRAIN LANE completing LANE_TRAIN_FAILED and then waiting host exchanges
LANE_NOT_READY. A change of state posts LANE_STATE and has the level evaluated. The judgment of a probe of an abandoned
run is ignored. A reply still arriving at the deadline is cut off where the lane goes on listening. -/
def Obligations.ProbesBringTheLaneToReadyOrFaulted : Prop :=
  (∀ (c : Instr) (s : State) (l : LaneId) (x : Exchange) (j : Verdict) (words : List StationWord),
    Concludes c s l x j words → x.source = .probe true → (s.lanes[l]).state = .training →
    ∃ t, exec c s = .next t ∧ (t.lanes[l]).inFlight = none ∧ OtherLanesKept s t l ∧ t.active = s.active ∧
      t.rings = s.rings ∧ t.sc = s.sc ∧
      (j = .done → (s.lanes[l]).goodRun = 3 → (t.lanes[l]).state = .ready ∧ (t.lanes[l]).waitingTrain = none ∧
        (t.lanes[l]).failures = (s.lanes[l]).failures ∧ (t.lanes[l]).queue = (s.lanes[l]).queue ∧
        (t.lanes[l]).receiver = .idle ∧
        Hands s t ((s.lanes[l]).waitingTrain.toList.map fun ref => ⟨ref, .ok, 0⟩) ∧
        Posts s t [laneStateEvent s l .ready 3] (healthChange s t) ∧ Evaluated s t) ∧
      (j = .done → (s.lanes[l]).goodRun < 3 → (s.lanes[l]).probesSent < 64 →
        t.lanes[l] = { s.lanes[l] with
          inFlight := none, goodRun := (s.lanes[l]).goodRun + 1, receiver := receiverAfter c s l } ∧
        t.pairs = s.pairs ∧ t.ew = s.ew ∧ t.hm = s.hm) ∧
      (j ≠ .done → (s.lanes[l]).probesSent < 64 →
        t.lanes[l] = { s.lanes[l] with inFlight := none, goodRun := 0, receiver := receiverAfter c s l } ∧
        t.pairs = s.pairs ∧ t.ew = s.ew ∧ t.hm = s.hm) ∧
      ((j ≠ .done ∨ (s.lanes[l]).goodRun < 3) → (s.lanes[l]).probesSent = 64 →
        (t.lanes[l]).state = .faulted ∧ (t.lanes[l]).queue = [] ∧ (t.lanes[l]).waitingTrain = none ∧
        (t.lanes[l]).receiver = .idle ∧
        (t.lanes[l]).retrainTimer =
          (if (s.lanes[l]).autoRetrain then some ((s.lanes[l]).retrainDelay * 100000) else none) ∧
        Hands s t (((s.lanes[l]).waitingTrain.toList.map fun ref => ⟨ref, .laneTrainFailed, 0⟩) ++
          (s.lanes[l]).queue.map fun q => ⟨q.exchange.ref, .laneNotReady, 0⟩) ∧
        Posts s t [laneStateEvent s l .faulted 4] (healthChange s t) ∧ Evaluated s t)) ∧
  (∀ (c : Instr) (s : State) (l : LaneId) (x : Exchange) (j : Verdict) (words : List StationWord),
    Concludes c s l x j words → x.source = .probe false →
    exec c s = .next (s.setLane l { s.lanes[l] with inFlight := none, receiver := receiverAfter c s l }))

/-- R36, R70, R71, R79, R82, R129: the sixth failure in a row of a READY lane faults it at that conclusion: its waiting
host exchanges complete LANE_NOT_READY, after what the exchange itself completes, and leave the queue; the count stays at
6, the retrain timer runs if auto-retrain is on, the receiver is free, and LANE_STATE is posted, after the exchange's own
outcome. A scheduled exchange is settled with its judgment, its reservation returned; a host one completes
EXCHANGE_FAILED. The level is evaluated with the change of state; what the Health Monitor posts of a settlement comes in
the order of log entry 25. What is on the line of a request is not cut (log entry 39). -/
def Obligations.SixthFailureFaultsTheLane : Prop :=
  ∀ (c : Instr) (s : State) (l : LaneId) (x : Exchange) (j : Verdict) (words : List StationWord),
    Concludes c s l x j words → (∀ b, x.source ≠ .probe b) → (j = .noReply ∨ j = .badCheck ∨ j = .badReply) →
    (s.lanes[l]).state = .ready → (s.lanes[l]).failures = 5 →
    let refused : List Completion := (s.lanes[l]).queue.map fun q => ⟨q.exchange.ref, .laneNotReady, 0⟩
    ∃ t, exec c s = .next t ∧
      t.lanes[l] = { s.lanes[l] with
        state := .faulted, failures := 6, queue := [], inFlight := none, receiver := .idle,
        retrainTimer := if (s.lanes[l]).autoRetrain then some ((s.lanes[l]).retrainDelay * 100000) else none } ∧
      (∀ f, x.source = .scheduled f → tableLaw s.activeEntries →
        t.healthNow = t.hm ∧ SettlesAndChanges s t f j (laneStateEvent s l .faulted 5) refused ∧
        (f.kind = .fetch ∨ f.kind = .swap → t.rings[f.ring] = { s.rings[f.ring] with
          reserved := (s.rings[f.ring]).reserved - 1 }) ∧
        (f.kind = .send ∨ f.kind = .probe → t.rings = s.rings) ∧
        (∀ r : RingId, r ≠ f.ring → t.rings[r] = s.rings[r])) ∧
      (∀ e, x.source = .host e →
        Hands s t ({ ref := e.ref, status := .exchangeFailed,
                     result := BitVec.ofNat 32 (j.code + 256 * x.sequence.toNat) } :: refused) ∧
        Posts s t [laneStateEvent s l .faulted 5] (healthChange s t) ∧ Evaluated s t ∧
        t.active = s.active ∧ t.rings = s.rings ∧ t.buffers = s.buffers) ∧
      (∃ sent, t.outputs = sent ++ s.outputs ∧ ∀ m r cells, Output.laneFrame m r cells ∉ sent) ∧
      OtherLanesKept s t l ∧ t.slotQueue = s.slotQueue ∧ t.sc = s.sc ∧ t.dev = s.dev

/-- R62, R64, R67, R68, R69, R176: a frame that begins on a listening lane whose receiver is free is the reply of an
exchange that awaits one, else stale; a stale frame ends at its end pattern or with an idle line, without touching any
exchange, count or sequence number, and posts LANE_STALE_REPLY if stale notify was on when it began; the rest of a
cut-off reply ends without notice. A stale frame without an end pattern shows its check not good (log entry 41). What
cannot occur (an end without an end pattern, an idle line after one) changes nothing (log entry 2). -/
def Obligations.FramesAreRepliesStaleOrCutOff : Prop :=
  ∀ (s : State) (l : LaneId) (cells : List LineCell), s.serving = true →
    let with' := fun r => s.setLane l { s.lanes[l] with receiver := r }
    let notice := fun (bits : List Bool) (good : Bool) => (with' .idle).postAll
      [{ kind := .laneStaleReply, subject := BitVec.ofNat 16 l.val, cycle := s.sc.cycleCount, time := s.sc.localTime,
         detail := pack [((replyEcho bits).toNat, 0), (if good then 1 else 0, 8), ((s.lanes[l]).sequence.toNat, 16)] }]
    ((s.lanes[l]).receiver = .idle → ((s.lanes[l]).state = .training ∨ (s.lanes[l]).state = .ready) →
      (∀ x, (s.lanes[l]).inFlight = some x → x.settling = false →
        exec (.laneFrameBegins l) s = .next (with' .reply)) ∧
      ((s.lanes[l]).inFlight = none ∨ (∃ x, (s.lanes[l]).inFlight = some x ∧ x.settling = true) →
        exec (.laneFrameBegins l) s = .next (with' (.stale (s.lanes[l]).staleNotify)))) ∧
    ((s.lanes[l]).receiver = .idle → ((s.lanes[l]).state = .off ∨ (s.lanes[l]).state = .faulted) →
      exec (.laneFrameBegins l) s = .next s) ∧
    (∀ bits, replyOf cells = some bits →
      exec (.lineIdleTimeout l cells) s = .next s ∧
      ((s.lanes[l]).receiver = .stale false → exec (.staleFrame l cells) s = .next (with' .idle)) ∧
      ((s.lanes[l]).receiver = .stale true → 8 ≤ bits.length →
        exec (.staleFrame l cells) s = .next (notice bits (checkGood bits)))) ∧
    (replyOf cells = none →
      exec (.replyComplete l cells) s = .next s ∧ exec (.staleFrame l cells) s = .next s ∧
      ((s.lanes[l]).receiver = .stale false → exec (.lineIdleTimeout l cells) s = .next (with' .idle)) ∧
      ((s.lanes[l]).receiver = .stale true → 8 ≤ (frameBits cells).length →
        exec (.lineIdleTimeout l cells) s = .next (notice (frameBits cells) false)) ∧
      ((s.lanes[l]).receiver = .cutOff → exec (.lineIdleTimeout l cells) s = .next (with' .idle))) ∧
    ((s.lanes[l]).receiver = .cutOff → exec (.cutOffReplyEnds l) s = .next (with' .idle))

/-! ### Inbound rings (chapter 5) -/

/-- R84, R138, R155: RING CREATE, QUEUE CREATE and EVENTS OPEN make a ring, a pair and the event ring that is not there
ACTIVE, empty, with its base, size and interrupt enable; EVENTS OPEN answers how the old ring was left. Each is refused
by the first of its checks that applies. -/
def Obligations.CreationsMakeFreshRings : Prop :=
  (∀ (s : State) (h : Held), s.heldCommand 0x30 = some h → h.pair = 0 →
    let n := recordField16 h.record 12
    let base := recordAddress h.record 16
    let fits := base.toNat % 64 = 0 ∧ (∃ k, 1 ≤ k ∧ k ≤ 12 ∧ n = 2 ^ k) ∧
      reservedZero h.record [(8, 8), (12, 13), (16, 23)] = true
    (15 < recordByte h.record 8 ∨ ¬ fits → Answers .ringCreate s s.taken h .badField 0) ∧
    (∀ i : RingId, recordByte h.record 8 = i.val → fits →
      ((s.rings[i]).state ≠ .absent ∨ (s.rings[i]).closing ≠ none →
        Answers .ringCreate s s.taken h .inUse 0) ∧
      ((s.rings[i]).state = .absent → (s.rings[i]).closing = none →
        Answers .ringCreate s
          (s.taken.setRing i { state := .active, closing := none, base := base, slotCount := n, written := 0,
                               returned := 0, reserved := 0, lap := true }) h .ok 0))) ∧
  (∀ (s : State) (h : Held), s.heldCommand 0x60 = some h → h.pair = 0 →
    let n := recordField16 h.record 12
    let sq := recordAddress h.record 16
    let cq := recordAddress h.record 24
    let fits := recordByte h.record 9 ≤ 1 ∧ sq.toNat % 64 = 0 ∧ cq.toNat % 64 = 0 ∧ (∃ k, 2 ≤ k ∧ k ≤ 12 ∧ n = 2 ^ k) ∧
      reservedZero h.record [(8, 9), (12, 13), (16, 31)] = true
    (recordByte h.record 8 = 0 ∨ 3 < recordByte h.record 8 ∨ ¬ fits → Answers .queueCreate s s.taken h .badField 0) ∧
    (∀ p : PairId, p ≠ 0 → recordByte h.record 8 = p.val → fits →
      ((s.pairs[p]).state ≠ .absent ∨ (s.pairs[p]).deleting ≠ none →
        Answers .queueCreate s s.taken h .inUse 0) ∧
      ((s.pairs[p]).state = .absent → (s.pairs[p]).deleting = none →
        Answers .queueCreate s
          (s.taken.setPair p
            { state := .active, deleting := none, sqBase := sq, cqBase := cq, depth := n, sqTail := 0, sqHead := 0,
              cqTail := 0, cqPhase := true, cqHead := 0, outstanding := 0,
              intEnable := decide (recordByte h.record 9 = 1), armed := true, cause := .none, handed := [],
              writing := none }) h .ok 0))) ∧
  (∀ (s : State) (h : Held), s.heldCommand 0x50 = some h → h.pair = 0 →
    let n := recordField16 h.record 12
    let base := recordAddress h.record 16
    let fits := recordByte h.record 9 ≤ 1 ∧ base.toNat % 64 = 0 ∧ (∃ k, 4 ≤ k ∧ k ≤ 12 ∧ n = 2 ^ k) ∧
      reservedZero h.record [(9, 9), (12, 13), (16, 23)] = true
    (¬ fits → Answers .eventsOpen s s.taken h .badField 0) ∧
    (fits →
      (s.ew.state = .active → Answers .eventsOpen s s.taken h .inUse 0) ∧
      (s.ew.state ≠ .active →
        Answers .eventsOpen s
          { s.taken with ew :=
            { state := .active, base := base, depth := n, intEnable := decide (recordByte h.record 9 = 1), tail := 0,
              phase := true, head := 0, queue := [], armed := true, overflow := none, cause := .none, dropped := 0,
              stray := s.ew.stray } } h .ok
          (pack [(if s.ew.state = .error then 2 else 0, 0), (s.ew.cause.code, 8), (s.ew.dropped, 16)]))))

/-- R83, R90, R92, R93: RING RELEASE moves the returned count of a ring that is not ABSENT to its new value, unless that
goes beyond what has been written, and answers what is left written and not returned. RING DELETE of a ring that an
active FETCH or SWAP names, or one of the edit table while a commit is pending, is IN_USE. Of a ring without outstanding
work it makes it ABSENT at once, and OK shows the written count; with a reservation or a queued write of this ring it is
closing and answers nothing yet. RING_DELETE_FINISH does the rest when neither is left, whatever is queued for other
rings, and while one is left it changes nothing (log entry 2). Each is refused by the first of its checks that applies.
-/
def Obligations.RingsAreReleasedAndDeleted : Prop :=
  (∀ (s : State) (h : Held), s.heldCommand 0x31 = some h →
    let new := recordField32 h.record 12
    (15 < recordByte h.record 8 ∨ reservedZero h.record [(8, 8), (12, 15)] = false →
      Answers .ringRelease s s.taken h .badField 0) ∧
    (∀ i : RingId, recordByte h.record 8 = i.val → reservedZero h.record [(8, 8), (12, 15)] = true →
      ((s.rings[i]).state = .absent → Answers .ringRelease s s.taken h .ringAbsent 0) ∧
      ((s.rings[i]).state ≠ .absent →
        (((s.rings[i]).written - (s.rings[i]).returned).toNat < (new - (s.rings[i]).returned).toNat →
          Answers .ringRelease s s.taken h .badIndex 0) ∧
        ((new - (s.rings[i]).returned).toNat ≤ ((s.rings[i]).written - (s.rings[i]).returned).toNat →
          Answers .ringRelease s (s.taken.setRing i { s.rings[i] with returned := new }) h .ok
            ((s.rings[i]).written - new))))) ∧
  (∀ (s : State) (h : Held), s.heldCommand 0x32 = some h → h.pair = 0 →
    (15 < recordByte h.record 8 ∨ reservedZero h.record [(8, 8)] = false →
      Answers .ringDelete s s.taken h .badField 0) ∧
    (∀ i : RingId, recordByte h.record 8 = i.val → reservedZero h.record [(8, 8)] = true →
      let queued := ∃ w ∈ s.slotQueue, ∃ x f, (s.lanes[w.lane]).inFlight = some x ∧ x.source = .scheduled f ∧
        x.settling = true ∧ f.ring = i
      let named := (∃ a ∈ s.active, (a.entry.kind = .fetch ∨ a.entry.kind = .swap) ∧ a.entry.ring = i) ∨
        (s.pendingCommit ≠ none ∧ ∃ e ∈ s.edit, (e.kind = .fetch ∨ e.kind = .swap) ∧ e.ring = i)
      ((s.rings[i]).state = .absent → Answers .ringDelete s s.taken h .ringAbsent 0) ∧
      ((s.rings[i]).state ≠ .absent →
        ((s.rings[i]).closing ≠ none → Answers .ringDelete s s.taken h .wrongState 0) ∧
        ((s.rings[i]).closing = none →
          (named → Answers .ringDelete s s.taken h .inUse 0) ∧
          (¬ named →
            ((s.rings[i]).reserved = 0 → ¬ queued →
              Answers .ringDelete s (s.taken.setRing i InRing.reset) h .ok (s.rings[i]).written) ∧
            ((s.rings[i]).reserved ≠ 0 ∨ queued →
              exec .ringDelete s = .next (s.taken.setRing i { s.rings[i] with closing := some h.ref }))))))) ∧
  (∀ (s : State) (i : RingId) (ref : CmdRef), s.serving = true → (s.rings[i]).closing = some ref →
    let queued := ∃ w ∈ s.slotQueue, ∃ x f, (s.lanes[w.lane]).inFlight = some x ∧ x.source = .scheduled f ∧
      x.settling = true ∧ f.ring = i
    ((s.rings[i]).reserved ≠ 0 ∨ queued → exec (.ringDeleteFinish i) s = .next s) ∧
    ((s.rings[i]).reserved = 0 → ¬ queued →
      exec (.ringDeleteFinish i) s = .next ((s.setRing i InRing.reset).complete ref .ok (s.rings[i]).written))) ∧
  InRing.reset = { state := .absent, closing := none, base := 0, slotCount := 0, written := 0, returned := 0,
                   reserved := 0, lap := true }

/-- R83, R85, R86, section 11.4: a ring in ERROR answers RING_FAULT, one whose occupancy is its slot count NO_ROOM, and
another grants one more reservation and changes nothing else; so the occupancy never passes the slot count. The write at
the head of the queue begins on an ACTIVE ring at position written mod slot count with the lap, handle, cycle count,
word count, start time and words of its firing; the descriptor stays. A slot beyond the last address lies at its address
modulo 2^64 (log entry 38), and a start presented while a write is in progress changes nothing (log entry 2). -/
def Obligations.SlotsAreReservedAndWrittenInOrder : Prop :=
  (∀ r : InRing,
    (r.state = .error → r.reserve = .error .ringFault) ∧
    (r.state = .active → (r.written - r.returned).toNat + r.reserved = r.slotCount → r.reserve = .error .noRoom) ∧
    (r.state = .active → (r.written - r.returned).toNat + r.reserved < r.slotCount →
      r.reserve = .ok { r with reserved := r.reserved + 1 }) ∧
    (∀ q, r.reserve = .ok q → (q.written - q.returned).toNat + q.reserved ≤ q.slotCount ∧ q.slotCount = r.slotCount)) ∧
  (∀ (s : State) (w : SlotWrite) (rest : List SlotWrite) (f : Firing), s.serving = true → s.slotQueue = w :: rest →
    s.settlingFiring w.lane = some f →
    (s.slotWriting = true → exec .slotWriteStart s = .next s) ∧
    (s.slotWriting = false → (s.rings[f.ring]).state = .active →
      exec .slotWriteStart s = .next { s with
        slotWriting := true,
        outputs := .dmaWrite
          ((s.rings[f.ring]).base +
            BitVec.ofNat 64 (64 * ((s.rings[f.ring]).written.toNat % (s.rings[f.ring]).slotCount)))
          (slotBytes (s.rings[f.ring]).lap f w.words) :: s.outputs }) ∧
    (∀ lap, let b := slotBytes lap f w.words
      b.length = 64 ∧
      b.take 4 = [if lap then 1 else 0, BitVec.ofNat 8 f.handle, BitVec.ofNat 8 f.cycle, BitVec.ofNat 8 f.inCount] ∧
      bytesField b 4 4 = f.start.toNat ∧ bytesField b 8 24 = 0 ∧
      ∀ j < 16, bytesField b (32 + 2 * j) 2 = (w.words.getD j 0).toNat))

/-- R37, R38, R87, R88, R89, R124, R132, R134: a slot write that ends well raises written, lowers reserved and inverts
the lap at the wrap; one that fails puts the ring in ERROR, returns the reservation and posts RING_FAULT with the
position; on a ring in ERROR no write begins and the reservation is returned. In each case the write leaves the queue,
the exchange leaves its lane and its firing is settled, DONE with the slot's position for the first and RING_FAULT for
the others: scored, counted out of its matrix record's exchanges in flight, handed to the value slots, and posted where
notify asks (in the order of log entries 5 and 25). Other rings and lanes stay. -/
def Obligations.SlotWriteEndSettlesTheFiring : Prop :=
  ∀ (s : State) (w : SlotWrite) (rest : List SlotWrite) (f : Firing) (c : Instr) (o : Verdict) (ring : InRing)
    (slot : Nat) (first : List Event),
    s.serving = true → s.slotQueue = w :: rest → s.settlingFiring w.lane = some f → tableLaw s.activeEntries →
    let position := (s.rings[f.ring]).written.toNat % (s.rings[f.ring]).slotCount
    ((c = .slotWriteEnd .ok ∧ s.slotWriting = true ∧ o = .done ∧ slot = position ∧ first = [] ∧
        ring = { s.rings[f.ring] with
          written := (s.rings[f.ring]).written + 1, reserved := (s.rings[f.ring]).reserved - 1,
          lap := if ((s.rings[f.ring]).written + 1).toNat % (s.rings[f.ring]).slotCount = 0
            then !(s.rings[f.ring]).lap else (s.rings[f.ring]).lap }) ∨
      (c = .slotWriteEnd .error ∧ s.slotWriting = true ∧ o = .ringFault ∧ slot = 0 ∧
        first = [{ kind := .ringFault, subject := BitVec.ofNat 16 f.ring.val, cycle := f.cycle, time := f.start,
                   detail := pack [(f.handle, 0), (position, 16)] }] ∧
        ring = { s.rings[f.ring] with state := .error, reserved := (s.rings[f.ring]).reserved - 1 }) ∨
      (c = .slotWriteStart ∧ s.slotWriting = false ∧ (s.rings[f.ring]).state ≠ .active ∧
        (f.kind = .fetch ∨ f.kind = .swap) ∧ o = .ringFault ∧ slot = 0 ∧ first = [] ∧
        ring = { s.rings[f.ring] with reserved := (s.rings[f.ring]).reserved - 1 })) →
    ∃ t, exec c s = .next t ∧ t.slotQueue = rest ∧ t.slotWriting = false ∧ t.rings[f.ring] = ring ∧
      (∀ r : RingId, r ≠ f.ring → t.rings[r] = s.rings[r]) ∧
      t.lanes[w.lane] = { s.lanes[w.lane] with inFlight := none } ∧ OtherLanesKept s t w.lane ∧
      (f.attached = false → t.active = s.active) ∧
      (f.attached = true → t.active = s.active.map fun a =>
        if a.entry.handle = f.handle then
          { a with run := if f.kind = .send ∨ f.kind = .swap then (a.run.scored o).settled a.entry.mode
                          else a.run.scored o }
        else a) ∧
      Settles s t f o slot true first ∧
      t.sc = s.sc ∧ t.edit = s.edit ∧ t.cycle = s.cycle

/-! ### Time base and rack synchronization (chapter 6) -/

/-- R96, R97, R110, section 11.1: a SET CYCLE PLAN record is accepted exactly when each parameter, read from its bytes,
lies in its range and every must-be-zero byte is zero; the plan then has those parameters. In CONFIG it replaces the
plan and sets the role the unit will start with; an own beacon begun before STOP and still on the pair goes on, also
under a FOLLOWER's plan (the model's choice, log entry 46). RESIGN by a LEADER whose hold is clear sets the hold and
waits. Each is refused by the first of its checks that applies. -/
def Obligations.PlanIsSetAndLeaderResigns : Prop :=
  (∀ (r : CommandRecord) (p : Plan), recordPlan r = some p ↔
    p.stu = recordField16 r 8 ∧ p.bm = recordField16 r 10 ∧ p.matrix = recordByte r 12 ∧ p.stagger = recordByte r 13 ∧
    p.watchMargin = recordField16 r 14 ∧ (if p.candidate then 1 else 2) = recordByte r 16 ∧ p.rank = recordByte r 17 ∧
    p.unit = recordByte r 18 ∧ (if p.reports then 1 else 0) = recordByte r 19 ∧ p.trimLimit = recordField16 r 20 ∧
    50 ≤ p.stu ∧ p.stu ≤ 10000 ∧ 64 ≤ p.bm ∧ p.bm ≤ 60000 ∧ p.matrix ∈ [1, 2, 4, 8, 16, 32, 64] ∧
    2 ≤ p.stagger ∧ p.stagger ≤ 255 ∧ 9 * p.stagger + 16 ≤ p.watchMargin ∧ p.bm + p.watchMargin ≤ 65535 ∧
    p.rank ≤ 7 ∧ (p.candidate = false → p.rank = 0) ∧ p.unit ≤ 31 ∧ 50 ≤ p.trimLimit ∧ p.trimLimit ≤ 2000 ∧
    reservedZero r [(8, 21)] = true) ∧
  (∀ (s : State) (h : Held), s.heldCommand 0x40 = some h → h.pair = 0 →
    (s.dev ≠ .config → Answers .setCyclePlan s s.taken h .wrongState 0) ∧
    (s.dev = .config →
      (recordPlan h.record = none → Answers .setCyclePlan s s.taken h .badField 0) ∧
      (∀ p, recordPlan h.record = some p →
        Answers .setCyclePlan s
          { s.taken with
            sc := { s.sc with plan := some p, role := if p.candidate then .backup else .follower } } h .ok 0))) ∧
  (∀ (s : State) (h : Held), s.heldCommand 0x42 = some h →
    (reservedZero h.record [] = false → Answers .resign s s.taken h .badField 0) ∧
    (reservedZero h.record [] = true →
      (s.sc.role ≠ .leader → Answers .resign s s.taken h .notLeader 0) ∧
      (s.sc.role = .leader → s.sc.hold = true → Answers .resign s s.taken h .wrongState 0) ∧
      (s.sc.role = .leader → s.sc.hold = false →
        exec .resign s = .next { s.taken with sc := { s.sc with hold := true, resign := some h.ref } })))

/-- R100, R105, R106, R107, R108: a beacon starts exactly when its attempt is due: RUNNING, a candidate, the pair idle
with no activity since BM, the hold clear, and for a LEADER cycle time BM, for a BACKUP BM + (rank + 1) x stagger, each
in ACQUIRING or LOCKED, and in UNSYNCED the latter. It carries the count that follows (0 in UNSYNCED), with RESTART set
but for a LEADER, and the pair is busy from then on. A start that is presented when it is not due changes nothing (log
entry 2). -/
def Obligations.BeaconsStartWhenDue : Prop :=
  ∀ (s : State) (p : Plan) (c : Instr) (count : Nat) (restart : Bool), s.sc.plan = some p →
    (let may := s.dev = .running ∧ p.candidate = true ∧ s.sc.receiving = none ∧ s.sc.sending = none ∧
        s.sc.activity = false ∧ s.sc.hold = false
      let cycles := s.sc.sync = .acquiring ∨ s.sc.sync = .locked
      let due := fun d : Prop => (d → exec c s = .next
          { s with
            sc := { s.sc with
              sending := some { instant := s.sc.now, count := count, restart := restart, clocks := 0, counts := true },
              activity := true },
            outputs := .beacon (beaconBits p.rank p.unit count p.matrix restart p.bm) :: s.outputs }) ∧
        (¬ d → exec c s = .next s)
      (c = .leaderBeaconStart → count = (s.sc.cycleCount + 1) % p.matrix → restart = false →
        due (may ∧ s.sc.role = .leader ∧ cycles ∧ s.sc.cycleTime = p.bm)) ∧
      (c = .backupBeaconStart → count = (s.sc.cycleCount + 1) % p.matrix → restart = true →
        due (may ∧ s.sc.role = .backup ∧ cycles ∧ s.sc.cycleTime = p.bm + (p.rank + 1) * p.stagger)) ∧
      (c = .freeRunBeaconStart → count = 0 → restart = true →
        due (may ∧ s.sc.sync = .unsynced ∧ s.sc.cycleTime = p.bm + (p.rank + 1) * p.stagger)))

/-- R100, R101, section 11.5: a beacon as it is sent has 61 bits with each field at its place, most significant bit
first, and the check over bits 8 to 41; it is valid for a unit with the same matrix length and BM, and gives back its
rank, unit number, count and RESTART; another BM or matrix length is rejected with its own reason, and one inverted bit
with CHECK, or FRAME in a pattern. Of any frame the first reason that applies is given: FRAME (1) for a wrong length or
pattern, CHECK (2), MATRIX (3), BEACON_MARK (4), COUNT (5) for a count of M or more. -/
def Obligations.BeaconSentIsBeaconReceived : Prop :=
  (∀ (rank unit count k bm k' bm' : Nat) (restart : Bool),
    rank < 8 → unit < 32 → k ≤ 6 → k' ≤ 6 → count < 2 ^ k → bm < 65536 → bm' < 65536 →
    let bits := beaconBits rank unit count (2 ^ k) restart bm
    bits.length = 61 ∧ beaconFault (2 ^ k) bm bits = none ∧ beaconRank bits = rank ∧ beaconUnit bits = unit ∧
    beaconCount bits = count ∧ beaconRestart bits = restart ∧
    frameField bits 0 8 = 0b01010101 ∧ frameField bits 8 3 = rank ∧ frameField bits 11 5 = unit ∧
    frameField bits 16 6 = count ∧ frameField bits 22 3 = k ∧ frameField bits 25 1 = (if restart then 1 else 0) ∧
    frameField bits 26 16 = bm ∧ frameField bits 42 16 = (checkOf ((bits.drop 8).take 34)).toNat ∧
    frameField bits 58 3 = 0b101 ∧
    (k' ≠ k → beaconFault (2 ^ k') bm' bits = some 3) ∧ (bm' ≠ bm → beaconFault (2 ^ k) bm' bits = some 4) ∧
    (∀ i b, bits[i]? = some b →
      beaconFault (2 ^ k) bm (bits.set i (!b)) = some (if 8 ≤ i ∧ i < 58 then 2 else 1))) ∧
  (∀ (k bm : Nat) (bits : List Bool), k ≤ 6 →
    let frame := bits.length = 61 ∧ frameField bits 0 8 = 0b01010101 ∧ frameField bits 58 3 = 0b101
    let check := frameField bits 42 16 = (checkOf ((bits.drop 8).take 34)).toNat
    let fault := beaconFault (2 ^ k) bm bits
    (¬ frame → fault = some 1) ∧ (frame → ¬ check → fault = some 2) ∧
    (frame → check → frameField bits 22 3 ≠ k → fault = some 3) ∧
    (frame → check → frameField bits 22 3 = k → frameField bits 26 16 ≠ bm → fault = some 4) ∧
    (frame → check → frameField bits 22 3 = k → frameField bits 26 16 = bm → 2 ^ k ≤ frameField bits 16 6 →
      fault = some 5) ∧
    (frame → check → frameField bits 22 3 = k → frameField bits 26 16 = bm → frameField bits 16 6 < 2 ^ k →
      fault = none))

/-- R101, R111, R113, R114, R115, R129, section 11.3: the first dominant bit of a frame on an idle pair captures the
instant, and is activity from BM on; presented on a busy pair it changes nothing (log entry 2), and while the sync
state is OFF the pair is ignored. A rejected frame posts BEACON_REJECTED and its edge is not taken; cycle, role and
sync state go on as they were, unless a watch expiry waited for it, which is then taken whole in the same step, a
waiting RESIGN completing NO_TAKEOVER, with one evaluation of the level (log entry 17) and TRIM_STATE posted last (log
entry 44). The detail shows the reason, and rank, unit number and count as far as received, high bits first and 0 for
the rest, with bit 31 set when all three were. -/
def Obligations.CapturedFramesAreRejectedWithoutTrace : Prop :=
  (∀ (s : State) (p : Plan), s.sc.plan = some p → s.serving = true → s.sc.sync ≠ .off →
    (s.sc.receiving = none → s.sc.sending = none →
      exec .beaconCapture s = .next { s with
        sc := { s.sc with
          receiving := some s.sc.now, activity := s.sc.activity || decide (p.bm ≤ s.sc.cycleTime) } }) ∧
    (s.sc.receiving ≠ none ∨ s.sc.sending ≠ none → exec .beaconCapture s = .next s) ∧
    (∀ bits reason, s.sc.receiving ≠ none → beaconFault p.matrix p.bm bits = some reason →
      let rejected : Event :=
        { kind := .beaconRejected, subject := 0xFFFF, cycle := s.sc.cycleCount, time := s.sc.localTime,
          detail := rejectedDetail reason bits }
      (s.sc.sync = .unsynced ∨ s.sc.cycleTime < p.bm + p.watchMargin →
        exec (.beaconReceived bits) s = .next ({ s with
          sc := { s.sc with
            receiving := none,
            rejectedInRun := if s.sc.sync = SyncState.unsynced ∧ s.sc.firstFreeRun = true
              then s.sc.rejectedInRun + 1 else s.sc.rejectedInRun } }.postAll [rejected])) ∧
      (s.sc.sync ≠ .unsynced → p.bm + p.watchMargin ≤ s.sc.cycleTime →
        ∃ t, exec (.beaconReceived bits) s = .next t ∧ WatchExpires s t ∧
          Posts s t (rejected :: syncEvents s s.sc.cycleCount .unsynced 5 ++ stepDown s s.sc.cycleCount 4)
            (healthChange s t)))) ∧
  (∀ s : State, s.sc.sync = .off →
    exec .beaconCapture s = .next s ∧ ∀ bits, exec (.beaconReceived bits) s = .next s) ∧
  (∀ (reason : Nat) (bits : List Bool), 1 ≤ reason → reason ≤ 5 →
    let d := rejectedDetail reason bits
    let shown := fun start n : Nat => ((bits.drop start).take n ++ List.replicate n false).take n
    d.extractLsb' 0 3 = BitVec.ofNat 3 reason ∧ d.extractLsb' 3 5 = 0 ∧ d.extractLsb' 22 9 = 0 ∧
    (∀ i < 3, d.getLsbD (8 + i) = (shown 8 3).getD (2 - i) false) ∧
    (∀ i < 5, d.getLsbD (11 + i) = (shown 11 5).getD (4 - i) false) ∧
    (∀ i < 6, d.getLsbD (16 + i) = (shown 16 6).getD (5 - i) false) ∧
    (d.getLsbD 31 = true ↔ 22 ≤ bits.length))

/-- R18, R19, R25, R99, R104, R109, R111, R112, R121: a valid beacon of another unit is taken: the cycle count is its
count, cycle time the STU ended since its first bit (log entry 19), the sync state follows the table of R112, a LEADER
becomes BACKUP with a FROZEN trim returned to the state it kept and its trim as it was: that this edge is not measured,
though R118 admits units that are not LEADER, is the model's choice (log entry 18); a waiting RESIGN completes OK with
the new leader's rank and unit number, a pending EDIT COMMIT is performed at count 0 in LOCKED and not otherwise, and
the Dispatcher holds the new cycle exactly when the state is then LOCKED. What the edge does to trim, records, level,
host exchanges and events is stated in EdgesSwapMeasureAndReport. -/
def Obligations.ValidBeaconIsTakenAsAnEdge : Prop :=
  ∀ (s : State) (p : Plan) (instant : Instant) (bits : List Bool), s.sc.plan = some p →
    s.sc.receiving = some instant → s.serving = true → s.sc.sync ≠ .off → beaconFault p.matrix p.bm bits = none →
    let follows := beaconCount bits = (s.sc.cycleCount + 1) % p.matrix
    ∃ t, exec (.beaconReceived bits) s = .next t ∧ t.sc.cycleCount = beaconCount bits ∧
      t.sc.cycleTime = min 65535 (s.sc.localTime - instant.time).toNat ∧ t.sc.localTime = s.sc.localTime ∧
      t.sc.lastLeader = some (beaconRank bits, beaconUnit bits) ∧ t.sc.receiving = none ∧ t.sc.hold = false ∧
      (s.sc.sync = .unsynced → t.sc.sync = .acquiring) ∧
      (s.sc.sync ≠ .unsynced → follows → t.sc.sync = .locked) ∧
      (s.sc.sync ≠ .unsynced → ¬ follows → t.sc.sync = .acquiring) ∧
      t.sc.role = (if s.sc.role = .leader then .backup else s.sc.role) ∧
      (s.sc.role = .leader → t.sc.trimState = trimAfterLeading s ∧ t.sc.trim = s.sc.trim) ∧
      (s.sc.hold = true → t.sc.resign = none ∧
        ∀ ref, s.sc.resign = some ref → s.pairs[ref.pair].serves = true →
          ∃ rest, t.pairs[ref.pair].owed = s.pairs[ref.pair].owed ++
            ⟨ref, .ok, BitVec.ofNat 32 (beaconRank bits + 256 * beaconUnit bits)⟩ :: rest) ∧
      (t.sc.sync = .locked → ∃ c, t.cycle = some c ∧ c.count = beaconCount bits ∧
        ∀ i a, i < c.position → t.active[i]? = some a → a.entry.fires c.count = false) ∧
      (t.sc.sync ≠ .locked → t.cycle = none) ∧
      (∀ ref, s.pendingCommit = some ref → beaconCount bits = 0 → t.sc.sync = .locked →
        Swapped s t p ∧
        (s.pairs[ref.pair].serves = true → ∃ c ∈ t.pairs[ref.pair].owed, c.ref = ref ∧ c.status = .ok)) ∧
      (s.pendingCommit = none ∨ beaconCount bits ≠ 0 ∨ t.sc.sync ≠ .locked → NotSwapped s t) ∧
      t.dev = s.dev ∧ t.rings = s.rings ∧ t.slotQueue = s.slotQueue

/-- R18, R19, R99, R101, R104, R106, R107, R112, R121: when the unit's own beacon has been sent whole its edge is taken
as a valid one: cycle time becomes the STU ended since its first bit (log entry 19), a RESTART beacon makes the unit
LEADER with its trim FROZEN, a pending EDIT COMMIT is performed at count 0 in LOCKED and not otherwise. One that was
still on the pair at STOP only ends, after a new START too (log entry 43). OWN_BEACON_END before the 610th clock
changes nothing (log entry 2). What the edge does to trim, records, level, host exchanges and events is stated in
EdgesSwapMeasureAndReport. -/
def Obligations.OwnBeaconElectsItsSender : Prop :=
  ∀ (s : State) (p : Plan) (b : OwnBeacon), s.sc.plan = some p → s.sc.sending = some b → s.serving = true →
    (b.clocks < 610 → exec .ownBeaconEnd s = .next s) ∧
    (610 ≤ b.clocks →
      ((b.counts = false ∨ s.sc.sync = .off) →
        exec .ownBeaconEnd s = .next { s with sc := { s.sc with sending := none } }) ∧
      (b.counts = true → s.sc.sync ≠ .off → ∃ t, exec .ownBeaconEnd s = .next t ∧ t.sc.sending = none ∧
        t.sc.cycleCount = b.count ∧ t.sc.localTime = s.sc.localTime ∧
        t.sc.cycleTime = min 65535 (s.sc.localTime - b.instant.time).toNat ∧ t.sc.lastLeader = some (p.rank, p.unit) ∧
        (b.restart = true → t.sc.role = .leader) ∧ (b.restart = false → t.sc.role = s.sc.role) ∧
        (b.restart = true → s.sc.role ≠ .leader → t.sc.trimState = .frozen ∧ t.sc.trim = s.sc.trim) ∧
        (s.sc.sync = .unsynced → t.sc.sync = .acquiring) ∧
        (s.sc.sync ≠ .unsynced → b.count = (s.sc.cycleCount + 1) % p.matrix → t.sc.sync = .locked) ∧
        (s.sc.sync ≠ .unsynced → b.count ≠ (s.sc.cycleCount + 1) % p.matrix → t.sc.sync = .acquiring) ∧
        (∀ ref, s.pendingCommit = some ref → b.count = 0 → t.sc.sync = .locked →
          Swapped s t p ∧
          (s.pairs[ref.pair].serves = true → ∃ c ∈ t.pairs[ref.pair].owed, c.ref = ref ∧ c.status = .ok)) ∧
        (s.pendingCommit = none ∨ b.count ≠ 0 ∨ t.sc.sync ≠ .locked → NotSwapped s t) ∧
        (t.sc.sync ≠ .locked → t.cycle = none) ∧ t.dev = s.dev ∧ t.rings = s.rings))

/-- R102, R103, R104, R111, R117, R121, R129, R131, R133, R134, R171: a mismatch in the start pattern or rank field
only ends the attempt, and the frame goes on as one received from the same first bit; in the unit number field, or
later, the device enters HALTED with its cause: no beacon, no cycle, sync OFF, a LEADER BACKUP, the hold clear, a
pending commit swapped, the open matrix record closed. Posted are the clash with the unit's rank, number, the field and
the bit position, HALT, SYNC_STATE, ROLE_CHANGE and TRIM_STATE where they change, reports that are ready, and HEALTH if
the level changes, in this order; ENTRY_REMOVED, the commit's OK and a waiting RESIGN's CANCELLED are handed in this
order. A beacon left from before STOP only ends, after a new START too (log entry 43). That the level is evaluated
once, after the reports, is log entries 17 and 25; the order of several ENTRY_REMOVED is log entry 24. -/
def Obligations.ReadbackMismatchEndsTheBeaconOrHalts : Prop :=
  ∀ (s : State) (p : Plan) (b : OwnBeacon) (n : Nat), s.sc.plan = some p → s.sc.sending = some b → s.serving = true →
    let quiet := { s with sc := { s.sc with sending := none } }
    let field := if n ≤ 15 then 3 else if n ≤ 21 then 4 else if n ≤ 24 then 5 else if n = 25 then 6
      else if n ≤ 41 then 7 else if n ≤ 57 then 8 else 9
    let posted := fun (kind : EventKind) (detail : Reg) =>
      ({ kind := kind, subject := 0xFFFF, cycle := s.sc.cycleCount, time := s.sc.localTime, detail := detail } : Event)
    let halts := fun (c : Instr) (cause : HaltCause) (kind : EventKind) =>
      ∃ t, exec c s = .next t ∧ t.dev = .halted ∧ t.haltCause = cause ∧ t.cycle = none ∧ t.sc.sync = .off ∧
        t.sc.sending = none ∧ t.sc.receiving = none ∧ t.sc.hold = false ∧ (s.sc.hold = true → t.sc.resign = none) ∧
        t.sc.role = (if s.sc.role = .leader then .backup else s.sc.role) ∧ t.sc.plan = some p ∧
        t.sc.trim = s.sc.trim ∧ t.sc.trimState = trimAfterLeading s ∧
        (∀ ref, s.pendingCommit = some ref → Swapped s t p) ∧ (s.pendingCommit = none → NotSwapped s t) ∧
        (let last := s.hm.closed ++ s.hm.openRecord.toList.map fun m =>
            { m with
              expected := if s.pendingCommit = none then m.expected else t.hm.expected,
              isPartial := m.isPartial || decide (s.pendingCommit ≠ none) || decide (s.sc.sync = .locked) };
          t.hm.openRecord = none ∧ t.hm.closed = (last.filter fun m => decide (m.inFlight ≠ 0)) ∧ t.healthNow = t.hm ∧
          t.ew = (posted kind (pack [(p.rank, 0), (p.unit, 3), (field, 8), (n, 16)]) ::
              posted .halt (BitVec.ofNat 32 cause.code) :: syncEvents s s.sc.cycleCount .off 7 ++
              stepDown s s.sc.cycleCount 5 ++ readyRecords last ++ healthChange s t).foldl
            (fun w e => w.offer s.sc.localTime e) s.ew) ∧
        Hands s t ((s.pendingCommit.toList.flatMap fun ref => swapCompletions s ref) ++
          (if s.sc.hold then s.sc.resign.toList.map fun ref => ⟨ref, .cancelled, 0⟩ else [])) ∧ t.rings = s.rings
    ((b.counts = false ∨ s.sc.sync = .off) →
      (n ≤ 15 → exec (.arbitrationLoss n) s = .next quiet) ∧
      (16 ≤ n → n ≤ 60 → exec (.beaconClash n) s = .next quiet)) ∧
    (b.counts = true → s.sc.sync ≠ .off →
      (n ≤ 10 → exec (.arbitrationLoss n) s = .next
        { s with sc := { s.sc with sending := none, receiving := some b.instant } }) ∧
      (11 ≤ n → n ≤ 15 → halts (.arbitrationLoss n) .rankClash .rankClash) ∧
      (16 ≤ n → n ≤ 60 → halts (.beaconClash n) .beaconClash .beaconClash))

/-- R99, R104, R111, R112, R113, R114, R115, R121, R129, R133: in ACQUIRING and LOCKED a cycle that reaches WM with the
pair idle ends in watch expiry, which posts SYNC_STATE, ROLE_CHANGE and TRIM_STATE where they change (TRIM_STATE last,
log entry 44) and HEALTH if the level does (evaluated once, log entry 17), and completes a waiting RESIGN NO_TAKEOVER;
in UNSYNCED a free-run cycle begins anew at WM, the first of an episode posting NO_BEACON; in HALTED cycle time
restarts. Each presented before WM, in another state, or an expiry on a busy pair, for whose frame it waits, changes
nothing (log entry 2). -/
def Obligations.CyclesWithoutAnEdgeEndAtWm : Prop :=
  (∀ (s : State) (p : Plan), s.sc.plan = some p → p.bm + p.watchMargin ≤ s.sc.cycleTime →
    (s.dev = .running → (s.sc.sync = .acquiring ∨ s.sc.sync = .locked) → s.sc.receiving = none →
      s.sc.sending = none → ∃ t, exec .watchExpiry s = .next t ∧ WatchExpires s t ∧
        Posts s t (syncEvents s s.sc.cycleCount .unsynced 5 ++ stepDown s s.sc.cycleCount 4) (healthChange s t)) ∧
    (s.dev = .running → s.sc.sync = .unsynced →
      let again := { s with sc := { s.sc with
        cycleTime := 0, activity := false, firstFreeRun := false, rejectedInRun := 0 } }
      (s.sc.firstFreeRun = false → exec .freeRunCycle s = .next again) ∧
      (s.sc.firstFreeRun = true → s.sc.rejectedInRun < 65536 → exec .freeRunCycle s = .next (again.postAll
        [{ kind := .noBeacon, subject := 0xFFFF, cycle := s.sc.cycleCount, time := s.sc.localTime,
           detail := BitVec.ofNat 32 s.sc.rejectedInRun }]))) ∧
    (s.dev = .halted → exec .haltedCycleRestart s = .next { s with sc := { s.sc with cycleTime := 0 } })) ∧
  (∀ s : State, let early := ∀ p, s.sc.plan = some p → s.sc.cycleTime < p.bm + p.watchMargin
    (early ∨ s.dev ≠ .running ∨ s.sc.sync = .off ∨ s.sc.sync = .unsynced ∨ s.sc.receiving ≠ none ∨
      s.sc.sending ≠ none → exec .watchExpiry s = .next s) ∧
    (early ∨ s.dev ≠ .running ∨ s.sc.sync ≠ .unsynced → exec .freeRunCycle s = .next s) ∧
    (early ∨ s.dev ≠ .halted → exec .haltedCycleRestart s = .next s))

/-! ### Entry health and matrix reports (chapter 7) -/

/-- R124, R125, R126, R129, section 11.3: an outcome moves the score by the table of R124, within 0 to 15, and sets the
disabled flag exactly when it brings the score to 15; a disabled record keeps score and flag, and the value slots stay.
ENTRY REARM sets the score to 0 and clears the flag, and answers the two as they were; a must-be-zero byte or a handle
not in the active table refuses it. The health level then follows the conditions, HEALTH is posted if it changes and
nothing if not, and the rest of the machine stays. -/
def Obligations.OutcomesScoreAndRearmClears : Prop :=
  (∀ (r : Runtime) (o : Verdict),
    (r.disabled = true → r.scored o = r) ∧
    (r.disabled = false → r.score ≤ 14 →
      (r.scored o).waiting = r.waiting ∧ (r.scored o).current = r.current ∧ (r.scored o).stage = r.stage ∧
      ((r.scored o).disabled = true ↔ (r.scored o).score = 15) ∧
      (o = .done → (r.scored o).score = r.score - 1) ∧
      (o = .disabled → (r.scored o).score = r.score) ∧
      (o = .noValues ∨ o = .noRoom ∨ o = .ringFault → (r.scored o).score = r.score + 1) ∧
      (o = .noReply ∨ o = .badCheck ∨ o = .badReply ∨ o = .stationBusy ∨ o = .stationFault ∨ o = .laneNotReady ∨
        o = .laneBusy → (r.scored o).score = if r.score = 14 then 15 else r.score + 2))) ∧
  (∀ (s : State) (h : Held), s.heldCommand 0x12 = some h →
    (reservedZero h.record [(8, 8)] = false → Answers .entryRearm s s.taken h .badField 0) ∧
    (reservedZero h.record [(8, 8)] = true →
      (s.findActive (recordByte h.record 8) = none → Answers .entryRearm s s.taken h .noEntry 0) ∧
      (∀ a, s.findActive (recordByte h.record 8) = some a →
          let u := (s.taken.updateRun (recordByte h.record 8) fun x => { x with score := 0, disabled := false }).complete
            h.ref .ok (BitVec.ofNat 32 (a.run.score + if a.run.disabled then 256 else 0))
          let v := { u with hm := u.healthNow }
          (u.healthNow.degraded = s.hm.degraded → exec .entryRearm s = .next v) ∧
          (u.healthNow.degraded ≠ s.hm.degraded → exec .entryRearm s = .next (v.postAll
            [{ kind := .health, subject := 0xFFFF, cycle := s.sc.cycleCount, time := s.sc.localTime,
               detail := pack [(bit u.healthNow.degraded, 0), (bit s.hm.degraded, 1), (bit u.healthNow.weakEntry, 4),
                 (bit u.healthNow.disabledEntry, 5), (bit u.healthNow.trimSuspended, 6), (bit u.healthNow.laneDown, 7),
                 (u.weakCount, 8), (u.disabledCount, 17)] }])))))

/-- R128, R129, R134, section 11.3: evaluating the conditions gives the four flags and the level that the scores, the
trim state and the lanes call for, and posts HEALTH with levels, flags and counts at a change alone. MATRIX_REPORT posts
every closed record with no exchange in flight as its report, oldest first, and discards it, and the others stay; the
actions that close a record or settle its last exchange do so themselves (log entry 16; stated with them), so that
MATRIX_REPORT changes nothing in a state that keeps the law of EveryStepKeepsTablesAndScores. -/
def Obligations.HealthLevelAndMatrixReports : Prop :=
  (∀ s : State,
    let weak := s.active.countP fun a => decide (8 ≤ a.run.score)
    let disabled := s.active.countP fun a => a.run.disabled
    (s.healthNow.weakEntry = true ↔ 0 < weak) ∧ (s.healthNow.disabledEntry = true ↔ 0 < disabled) ∧
    (s.healthNow.trimSuspended = true ↔ s.sc.trimState = .suspended) ∧
    (s.healthNow.laneDown = true ↔ s.sc.sync = .locked ∧
      ∃ a ∈ s.active, a.entry.kind ≠ .marker ∧ (s.lanes[a.entry.lane]).state ≠ .ready) ∧
    (s.healthNow.degraded = true ↔
      s.healthNow.weakEntry = true ∨ s.healthNow.disabledEntry = true ∨ s.healthNow.trimSuspended = true ∨
        s.healthNow.laneDown = true) ∧
    (s.healthNow.degraded = s.hm.degraded → s.work.evaluate.health = []) ∧
    (s.healthNow.degraded ≠ s.hm.degraded → s.work.evaluate.health =
      [{ kind := .health, subject := 0xFFFF, cycle := s.sc.cycleCount, time := s.sc.localTime,
         detail := pack [(bit s.healthNow.degraded, 0), (bit s.hm.degraded, 1), (bit s.healthNow.weakEntry, 4),
           (bit s.healthNow.disabledEntry, 5), (bit s.healthNow.trimSuspended, 6), (bit s.healthNow.laneDown, 7),
           (weak, 8), (disabled, 17)] }])) ∧
  (∀ m : MatrixRecord, m.report =
    { kind := .matrixReport, subject := BitVec.ofNat 16 m.expected, cycle := m.lastCycle,
      time := pack [(m.done, 0), (m.failed, 16)],
      detail := pack [(m.skipped, 0), (if m.isPartial then 1 else 0, 16), (m.number, 24)] }) ∧
  (∀ s : State,
    (s.serving = false → exec .matrixReport s = .next s) ∧
    (s.serving = true → ∃ t, exec .matrixReport s = .next t ∧
      t = { s with
        hm := { s.hm with closed := s.hm.closed.filter fun m => decide (m.inFlight ≠ 0) },
        ew := t.ew, outputs := t.outputs } ∧
      t.ew = ((s.hm.closed.filter fun m => decide (m.inFlight = 0)).map MatrixRecord.report).foldl
        (fun w e => w.offer s.sc.localTime e) s.ew) ∧
    (s.recordsLaw → exec .matrixReport s = .next s))

/-! ### Command queues (chapter 8) -/

/-- R139, R140: QUEUE DELETE is refused by the first of its checks that applies. Else it ends what the pair has waiting
(its edit session with a pending commit, deferred STAGEs, waiting TRAIN LANEs and host exchanges, a waiting RESIGN,
handed completions) without a record; their sets, runs and the hold stay. With a host exchange in flight, a completion
write or a fetch of the pair it waits as deleting, and QUEUE_DELETE_FINISH does the rest when none is left, and changes
nothing while some is (log entry 2); else the pair becomes ABSENT at once, and OK shows how many commands were retired:
counted from the start of the deletion (log entry 15), with those whose buffer write is left in progress (log entry 14).
-/
def Obligations.QueueDeleteEndsThePairsWork : Prop :=
  (∀ (s : State) (h : Held), s.heldCommand 0x61 = some h → h.pair = 0 →
    (recordByte h.record 8 = 0 ∨ 3 < recordByte h.record 8 ∨ reservedZero h.record [(8, 8)] = false →
      Answers .queueDelete s s.taken h .badField 0) ∧
    (∀ p : PairId, p ≠ 0 → recordByte h.record 8 = p.val → reservedZero h.record [(8, 8)] = true →
      ((s.pairs[p]).state = .absent → Answers .queueDelete s s.taken h .noQueue 0) ∧
      ((s.pairs[p]).state ≠ .absent → (s.pairs[p]).deleting ≠ none →
        Answers .queueDelete s s.taken h .wrongState 0) ∧
      ((s.pairs[p]).state ≠ .absent → (s.pairs[p]).deleting = none →
        let busy := (∃ (l : LaneId) (x : Exchange) (e : HostExchange), (s.lanes[l]).inFlight = some x ∧
            x.source = .host e ∧ e.ref.pair = p) ∨ (s.pairs[p]).writing ≠ none ∨ s.fetching = some p
        let retired := s.active.countP (ActiveEntry.holdsStage p) +
          (match s.session with | some x => if x.owner = p ∧ x.commit ≠ none then 1 else 0 | none => 0) +
          (s.lanes.toList.map (Lane.droppedFor p)).sum + (dropRef p s.sc.resign).2 + (s.pairs[p]).handed.length
        ∃ t, exec .queueDelete s = .next t ∧
          (∀ x, s.session = some x → (x.owner = p → t.session = none ∧ t.edit = []) ∧
            (x.owner ≠ p → t.session = s.session ∧ t.edit = s.edit)) ∧
          t.active = s.active.map (fun a => { a with run := { a.run with
            stage := a.run.stage.filter fun d => decide (d.ref.pair ≠ p) } }) ∧
          (∀ l : LaneId, t.lanes[l] = { s.lanes[l] with
            waitingTrain := (s.lanes[l]).waitingTrain.filter fun c => decide (c.pair ≠ p),
            queue := (s.lanes[l]).queue.filter fun q => decide (q.exchange.ref.pair ≠ p) }) ∧
          t.sc = { s.sc with resign := s.sc.resign.filter fun c => decide (c.pair ≠ p) } ∧ t.rings = s.rings ∧
          t.ew = s.ew ∧ t.hm = s.hm ∧
          (busy → t.outputs = s.outputs ∧ t.buffers = s.buffers ∧ (∀ q : PairId, q ≠ p → t.pairs[q] = s.pairs[q]) ∧
            t.pairs[p] = { s.pairs[p] with
              deleting := some { ref := h.ref, retired := retired }, handed := [],
              outstanding := (t.pairs[p]).outstanding }) ∧
          (¬ busy → t.pairs[p] = Pair.reset ∧ t.buffers = (s.buffers.filter fun b => decide (b.ref.pair ≠ p)) ∧
            ((s.pairs[(0 : PairId)]).serves = true → t.pairs[(0 : PairId)].owed = (s.pairs[(0 : PairId)]).owed ++
              [⟨h.ref, .ok, BitVec.ofNat 32 (retired + s.buffers.countP fun b => decide (b.ref.pair = p))⟩]))))) ∧
  (∀ (s : State) (p : PairId) (d : Deletion), s.serving = true → (s.pairs[p]).deleting = some d → d.ref.pair ≠ p →
    let busy := (∃ (l : LaneId) (x : Exchange) (e : HostExchange), (s.lanes[l]).inFlight = some x ∧
        x.source = .host e ∧ e.ref.pair = p) ∨ (s.pairs[p]).writing ≠ none ∨ s.fetching = some p
    (busy → exec (.queueDeleteFinish p) s = .next s) ∧
    (¬ busy → ∃ t, exec (.queueDeleteFinish p) s = .next t ∧ t.pairs[p] = Pair.reset ∧
      t.buffers = (s.buffers.filter fun b => decide (b.ref.pair ≠ p)) ∧
      ((s.pairs[d.ref.pair]).serves = true → t.pairs[d.ref.pair].owed = (s.pairs[d.ref.pair]).owed ++
        [⟨d.ref, .ok, BitVec.ofNat 32 (d.retired + s.buffers.countP fun b => decide (b.ref.pair = p))⟩]) ∧
      t.lanes = s.lanes ∧ t.active = s.active ∧ t.session = s.session ∧ t.sc = s.sc ∧ t.rings = s.rings))

/-- R145, R165, section 11.1: a held record whose opcode names no command is refused with BAD_OPCODE, and an admin-only
command from another pair than 0 with ADMIN_ONLY before its own checks; nothing else changes. A command is the step
that takes the record with its opcode (log entry 1), so BAD_OPCODE presented while a known opcode is held, and every
command presented in OFF or FATAL, with nothing held, with a command in execution, or while the record held carries
another opcode, changes nothing (log entry 2). -/
def Obligations.BadOpcodeAndAdminOnlyAreRefused : Prop :=
  (∀ (s : State) (h : Held), s.holding = some h → s.serving = true → s.executing = none →
    (recordOpcode h.record ∉ opcodes → Answers .badOpcode s s.taken h .badOpcode 0) ∧
    (recordOpcode h.record ∈ opcodes → exec .badOpcode s = .next s)) ∧
  (∀ (s : State) (h : Held) (c : Instr) (opcode : Nat),
    (c, opcode) ∈ [(Instr.laneConfigure, 0x20), (Instr.ringCreate, 0x30), (Instr.ringDelete, 0x32),
      (Instr.setCyclePlan, 0x40), (Instr.eventsOpen, 0x50), (Instr.queueCreate, 0x60), (Instr.queueDelete, 0x61),
      (Instr.start, 0x70), (Instr.stop, 0x71)] →
    s.heldCommand opcode = some h → h.pair ≠ 0 → Answers c s s.taken h .adminOnly 0) ∧
  (∀ s : State,
    let idle := s.dev = .off ∨ s.dev = .fatal ∨ s.holding = none ∨ s.executing ≠ none
    (∀ (opcode : Nat) (h : Held), s.heldCommand opcode = some h ↔
      ¬ idle ∧ s.holding = some h ∧ recordByte h.record 0 = opcode) ∧
    (s.serving = true ↔ s.dev = .config ∨ s.dev = .running ∨ s.dev = .halted) ∧
    (idle → exec .badOpcode s = .next s) ∧
    ∀ (c : Instr) (opcode : Nat), (c, opcode) ∈ ([
      (.editBegin, 0x01), (.entryInsert, 0x02), (.entryRemove, 0x03), (.entryModify, 0x04),
      (.readEntry, 0x05), (.editCommit, 0x06), (.editDiscard, 0x07), (.stageValues, 0x10), (.entryClearValues, 0x11),
      (.entryRearm, 0x12), (.laneConfigure, 0x20), (.trainLane, 0x21), (.laneExchange, 0x22), (.readLane, 0x23),
      (.ringCreate, 0x30), (.ringRelease, 0x31), (.ringDelete, 0x32), (.setCyclePlan, 0x40), (.readTime, 0x41),
      (.resign, 0x42), (.eventsOpen, 0x50), (.queueCreate, 0x60), (.queueDelete, 0x61), (.start, 0x70), (.stop, 0x71)] :
        List (Instr × Nat)) →
      (idle ∨ ∀ h, s.holding = some h → recordByte h.record 0 ≠ opcode) → exec c s = .next s)

/-- R139, R141, R142, R147, R149, R150, R151, R153, R172: a tail below the depth becomes the SQ tail; a head below the
depth that goes no further than the written records becomes the CQ head and sets armed; any other value faults the pair.
A pair that is not ACTIVE or is deleting ignores both. A fault posts QUEUE_FAULT with its cause; the pair's handed
completions, and its record in the holding place, stop counting as outstanding, while the completion being written goes
on counting (the model's reading, log entry 15: R151 gives no moment). A fault of pair 0 makes the device FATAL, where
the record in the holding place, whatever its pair, stops counting when it is discarded; that buffers in progress end
without effect there, that nothing is being fetched, executed or written to a slot, that lanes lose their exchange and
the Dispatcher is IDLE is the model's reading of FATAL (log entry 28). One of another pair stops that pair alone. -/
def Obligations.DoorbellsMoveOrFaultThePair : Prop :=
  ∀ (s : State) (p : PairId) (v : Reg),
    let q := s.pairs[p]
    let headOk := v.toNat < q.depth ∧ (v.toNat + q.depth - q.cqHead) % q.depth ≤ (q.cqTail + q.depth - q.cqHead) % q.depth
    let faults := fun (c : Instr) (cause : PairFault) =>
      ∃ t, exec c s = .next t ∧ (t.pairs[p]).state = .error ∧ (t.pairs[p]).cause = cause ∧ (t.pairs[p]).handed = [] ∧
        t.ew = s.ew.offer s.sc.localTime (queueFaultOf s p cause) ∧
        (t.pairs[p]).outstanding = q.outstanding - (q.handed.length +
          match s.holding with | some h => if h.pair = p then 1 else 0 | none => 0) ∧
        (p = 0 → ∀ r : PairId, r ≠ p → (t.pairs[r]).outstanding = (s.pairs[r]).outstanding -
          match s.holding with | some h => if h.pair = r then 1 else 0 | none => 0) ∧
        (∀ h, s.holding = some h → h.pair = p → t.holding = none) ∧
        (p = 0 → t.dev = .fatal ∧ t.fatalCause = .adminQueue ∧ t.adminFault = cause ∧ t.sc.sync = .off ∧
          t.sc.sending = none ∧ t.cycle = none ∧ t.fetching = none ∧ t.executing = none ∧ t.buffers = [] ∧
          t.holding = none ∧ t.slotWriting = false ∧ ∀ l : LaneId, (t.lanes[l]).inFlight = none) ∧
        (p ≠ 0 → t.dev = s.dev ∧ (∀ r : PairId, r ≠ p → t.pairs[r] = s.pairs[r]) ∧ t.lanes = s.lanes ∧
          t.sc = s.sc ∧ t.cycle = s.cycle ∧ t.fetching = s.fetching ∧ t.buffers = s.buffers ∧
          (t.pairs[p]).writing = q.writing ∧ ∀ h, s.holding = some h → h.pair ≠ p → t.holding = some h) ∧
        t.active = s.active ∧ t.session = s.session ∧ t.rings = s.rings
    (s.serving = false ∨ q.state ≠ .active ∨ q.deleting ≠ none →
      exec (.sqTailWrite p v) s = .next s ∧ exec (.cqHeadWrite p v) s = .next s) ∧
    (s.serving = true → q.state = .active → q.deleting = none →
      (v.toNat < q.depth → exec (.sqTailWrite p v) s = .next (s.setPair p { q with sqTail := v.toNat })) ∧
      (q.depth ≤ v.toNat → faults (.sqTailWrite p v) .badTail) ∧
      (headOk → exec (.cqHeadWrite p v) s = .next (s.setPair p { q with cqHead := v.toNat, armed := true })) ∧
      (¬ headOk → faults (.cqHeadWrite p v) .badHead))

/-- R139, R142, R143, R144, R151: with no fetch in progress and an empty holding place, the arbiter takes the first pair
after the pointer that is ACTIVE, not deleting, has an unfetched record and room for its completion; the pointer moves
to it and the read of its next record begins. A record fetched for a pair that serves goes into the holding place, the
SQ head moves on and wraps, and the command is outstanding. One for a pair that has ceased to serve is discarded,
counted among the commands retired while deleting and not in ERROR (log entry 15), the SQ head and the outstanding count
staying (while deleting this is the model's choice, log entry 47), and a failed fetch faults an ACTIVE pair, posting
QUEUE_FAULT. FETCH_DECISION with no pair to choose changes nothing (log entry 2). -/
def Obligations.FetchesTakeTurnsAndFillTheHoldingPlace : Prop :=
  (∀ s : State,
    let eligible := fun p : PairId =>
      (s.pairs[p]).state = .active ∧ (s.pairs[p]).deleting = none ∧ 0 < (s.pairs[p]).unfetched ∧
        (s.pairs[p]).outstanding + (s.pairs[p]).unconsumed + 2 ≤ (s.pairs[p]).depth
    (s.serving = false ∨ s.fetching ≠ none ∨ s.holding ≠ none ∨ (∀ p, ¬ eligible p) →
      exec .fetchDecision s = .next s) ∧
    (s.serving = true → s.fetching = none → s.holding = none →
      ∀ k : Fin 4, eligible (s.pointer + (k + 1)) → (∀ j : Fin 4, j < k → ¬ eligible (s.pointer + (j + 1))) →
        let p := s.pointer + (k + 1)
        exec .fetchDecision s = .next { s with
          pointer := p, fetching := some p,
          outputs := .dmaRead ((s.pairs[p]).sqBase + BitVec.ofNat 64 (64 * (s.pairs[p]).sqHead)) :: s.outputs })) ∧
  (∀ (s : State) (p : PairId) (r : CommandRecord), s.serving = true → s.fetching = some p →
    let q := s.pairs[p]
    let next := if q.sqHead + 1 = q.depth then 0 else q.sqHead + 1
    (q.serves = true → exec (.fetchEnd (.data r)) s = .next ({ s with
      fetching := none, holding := some { record := r, pair := p, sqHead := next } }.setPair p
        { q with sqHead := next, outstanding := q.outstanding + 1 })) ∧
    (q.state = .error → exec (.fetchEnd (.data r)) s = .next ({ s with fetching := none }.setPair p q)) ∧
    (∀ d, q.state = .active → q.deleting = some d → exec (.fetchEnd (.data r)) s = .next
      ({ s with fetching := none }.setPair p { q with deleting := some { d with retired := d.retired + 1 } })) ∧
    (q.state = .active → ∃ t, exec (.fetchEnd .error) s = .next t ∧ t.fetching = none ∧
      (t.pairs[p]).state = .error ∧ (t.pairs[p]).cause = .fetchError ∧ (t.pairs[p]).handed = [] ∧
      t.ew = s.ew.offer s.sc.localTime (queueFaultOf s p .fetchError) ∧
      (p = 0 → t.dev = .fatal ∧ t.fatalCause = .adminQueue ∧ t.adminFault = .fetchError) ∧
      (p ≠ 0 → t.dev = s.dev ∧ ∀ x : PairId, x ≠ p → t.pairs[x] = s.pairs[x])) ∧
    (q.state ≠ .active → exec (.fetchEnd .error) s = .next { s with fetching := none }))

/-- R146, R148, R150, R151, R152, section 11.2: a completion record written well moves the CQ tail on, turns the phase
at the wrap, ends the command as outstanding, sends a message if enabled and armed (which clears armed), and the next
handed one begins in the same step (log entry 11). The record has the layout of section 11.2, with the status values of
section 8.9. A report or reply buffer write that ends well hands its command's OK with its result, and a report's
command is no longer in execution. One of either that fails faults an ACTIVE pair, posting QUEUE_FAULT; on a pair in
ERROR the write only ends, its command retired at that end (log entry 15). -/
def Obligations.HostWritesEndTheirCommands : Prop :=
  (∀ (s : State) (p : PairId) (c : Completion), s.serving = true → (s.pairs[p]).writing = some c →
    let q := s.pairs[p]
    let next := if q.cqTail + 1 = q.depth then 0 else q.cqTail + 1
    (q.state = .active → ∃ t, exec (.cqWriteEnd p .ok) s = .next t ∧
      t.pairs[p] = { q with
        cqTail := next, cqPhase := if q.cqTail + 1 = q.depth then !q.cqPhase else q.cqPhase,
        outstanding := q.outstanding - 1, armed := q.armed && !q.intEnable,
        writing := q.handed.head?, handed := q.handed.tail } ∧
      t.outputs =
        (match q.handed with
          | [] => []
          | d :: _ => [.dmaWrite (q.cqBase + BitVec.ofNat 64 (16 * next))
              (completionBytes d (if q.cqTail + 1 = q.depth then !q.cqPhase else q.cqPhase))]) ++
          (if q.intEnable = true ∧ q.armed = true then [.message (.pair p)] else []) ++ s.outputs ∧
      t = { s with pairs := t.pairs, outputs := t.outputs } ∧ ∀ x : PairId, x ≠ p → t.pairs[x] = s.pairs[x]) ∧
    (q.state = .active → ∃ t, exec (.cqWriteEnd p .error) s = .next t ∧ (t.pairs[p]).state = .error ∧
      (t.pairs[p]).cause = .cqWriteError ∧ (t.pairs[p]).owed = [] ∧
      t.ew = s.ew.offer s.sc.localTime (queueFaultOf s p .cqWriteError) ∧
      (p = 0 → t.dev = .fatal ∧ t.fatalCause = .adminQueue ∧ t.adminFault = .cqWriteError) ∧
      (p ≠ 0 → t.dev = s.dev ∧ ∀ x : PairId, x ≠ p → t.pairs[x] = s.pairs[x])) ∧
    (q.state = .error → ∀ result, ∃ t, exec (.cqWriteEnd p result) s = .next t ∧ (t.pairs[p]).writing = none ∧
      (t.pairs[p]).cqTail = q.cqTail ∧ (t.pairs[p]).outstanding = q.outstanding - 1 ∧ t.outputs = s.outputs ∧
      ∀ x : PairId, x ≠ p → t.pairs[x] = s.pairs[x])) ∧
  (∀ (s : State) (i : Nat) (b : BufferWrite), s.serving = true → s.buffers[i]? = some b →
    exec (.bufferWriteEnd i .ok) s = .next ({ s with
      buffers := s.buffers.take i ++ s.buffers.drop (i + 1),
      executing := if b.report then none else s.executing }.complete b.ref .ok b.result) ∧
    ∃ t, exec (.bufferWriteEnd i .error) s = .next t ∧
      ((s.pairs[b.ref.pair]).state = .active → (t.pairs[b.ref.pair]).state = .error ∧
        (t.pairs[b.ref.pair]).cause = .bufferWriteError ∧ (t.pairs[b.ref.pair]).handed = [] ∧
        t.ew = s.ew.offer s.sc.localTime (queueFaultOf s b.ref.pair .bufferWriteError) ∧
        (b.ref.pair = 0 → t.dev = .fatal ∧ t.fatalCause = .adminQueue ∧ t.adminFault = .bufferWriteError) ∧
        (b.ref.pair ≠ 0 → t.dev = s.dev ∧ t.buffers = s.buffers.take i ++ s.buffers.drop (i + 1))) ∧
      ((s.pairs[b.ref.pair]).state ≠ .active → t.dev = s.dev ∧ t.ew = s.ew ∧
        (t.pairs[b.ref.pair]).state = (s.pairs[b.ref.pair]).state ∧
        (t.pairs[b.ref.pair]).outstanding = (s.pairs[b.ref.pair]).outstanding - 1)) ∧
  (∀ (c : Completion) (phase : Bool), IsCompletionRecord (completionBytes c phase) c phase) ∧
  ([.ok, .superseded, .cancelled, .entryRemoved, .exchangeFailed, .noTakeover, .badOpcode, .badField, .adminOnly,
    .wrongState, .noPlan, .noQueue, .sessionOpen, .noSession, .notOwner, .commitPending, .tableFull, .handleInUse,
    .duplicateKey, .noEntry, .wrongKind, .countMismatch, .markRange, .periodRange, .laneOverlap, .windowShort,
    .ringAbsent, .inUse, .badIndex, .queueFull, .laneNoGap, .laneNotReady, .laneTrainFailed, .notLeader].map Status.code =
    [0x00, 0x01, 0x02, 0x03, 0x04, 0x05, 0x10, 0x11, 0x12, 0x13, 0x14, 0x15, 0x20, 0x21, 0x22, 0x23, 0x24, 0x25, 0x26,
     0x27, 0x28, 0x29, 0x30, 0x31, 0x32, 0x33, 0x34, 0x40, 0x41, 0x42, 0x43, 0x44, 0x45, 0x46])

/-- R11, R81, R122, R146, R174, section 11.4: each report command is refused by the first of its checks that applies;
else it begins one DMA write of its report to its host address, and stays in execution with its completion to follow
that write. Each report has the bytes of section 11.4: a field its state lacks is zero. -/
def Obligations.ReportsAreWrittenBeforeTheyComplete : Prop :=
  ∀ (s : State) (h : Held),
    let reports := fun (c : Instr) (bytes : List Byte) =>
      exec c s = .next { s.taken with
        executing := some h.ref, buffers := s.buffers ++ [{ ref := h.ref, result := 0, report := true }],
        outputs := .dmaWrite (recordAddress h.record 16) bytes :: s.outputs }
    (s.heldCommand 0x05 = some h →
      (1 < recordByte h.record 9 ∨ reservedZero h.record [(8, 9), (16, 23)] = false →
        Answers .readEntry s s.taken h .badField 0) ∧
      (reservedZero h.record [(8, 9), (16, 23)] = true →
        (recordByte h.record 9 = 0 → s.findActive (recordByte h.record 8) = none →
          Answers .readEntry s s.taken h .noEntry 0) ∧
        (∀ a, recordByte h.record 9 = 0 → s.findActive (recordByte h.record 8) = some a →
          reports .readEntry
            (entryReport a.entry (s.activeEntries.countP fun x => x.before a.entry) (some a.run))) ∧
        (recordByte h.record 9 = 1 → s.session = none → Answers .readEntry s s.taken h .noSession 0) ∧
        (recordByte h.record 9 = 1 → s.session ≠ none → findHandle (recordByte h.record 8) s.edit = none →
          Answers .readEntry s s.taken h .noEntry 0) ∧
        (∀ e, recordByte h.record 9 = 1 → s.session ≠ none → findHandle (recordByte h.record 8) s.edit = some e →
          reports .readEntry (entryReport e (s.edit.countP fun x => x.before e) none)))) ∧
    (s.heldCommand 0x23 = some h →
      (7 < recordByte h.record 8 ∨ reservedZero h.record [(8, 8), (16, 23)] = false →
        Answers .readLane s s.taken h .badField 0) ∧
      (∀ l : LaneId, recordByte h.record 8 = l.val → reservedZero h.record [(8, 8), (16, 23)] = true →
        reports .readLane (laneReport s.lanes[l]))) ∧
    (s.heldCommand 0x41 = some h →
      (reservedZero h.record [(16, 23)] = false → Answers .readTime s s.taken h .badField 0) ∧
      (reservedZero h.record [(16, 23)] = true → reports .readTime (timeReport s.sc))) ∧
    (∀ (e : Entry) (n : Nat) (run : Option Runtime), let b := entryReport e n run
      b.length = 32 ∧ IsEntryRecord b 0 e ∧ bytesField b 16 1 = n % 256 ∧
      bytesField b 17 1 = (if run = none then 1 else 0) ∧ bytesField b 20 12 = 0 ∧
      (run = none → bytesField b 18 2 = 0) ∧
      (∀ r, run = some r → bytesField b 18 1 = r.score % 256 ∧
        bytesField b 19 1 = bit r.disabled + 2 * bit r.waiting.isSome + 4 * bit r.current.isSome +
          8 * bit r.stage.isSome)) ∧
    (∀ x : Lane, let b := laneReport x
      b.length = 16 ∧ bytesField b 0 1 = (match x.state with | .off => 0 | .training => 1 | .ready => 2 | .faulted => 3) ∧
      bytesField b 1 1 = (match x.rate with | .mbit12 => 1 | .mbit25 => 2 | .mbit50 => 3) ∧
      bytesField b 2 1 = bit x.autoRetrain ∧ bytesField b 3 1 = x.retrainDelay % 256 ∧
      bytesField b 4 1 = bit x.staleNotify ∧ bytesField b 5 1 = x.sequence.toNat ∧
      bytesField b 6 1 = x.failures % 256 ∧ bytesField b 7 1 = x.queue.length % 256 ∧
      bytesField b 8 1 = (match x.inFlight.map Exchange.source with
        | none => 0 | some (.scheduled _) => 1 | some (.host _) => 2 | some (.probe _) => 3) ∧
      bytesField b 9 1 = (if x.state = .training then x.probesSent % 256 else 0) ∧
      bytesField b 10 1 = (if x.state = .training then x.goodRun % 256 else 0) ∧
      bytesField b 11 1 = (if x.state = .faulted ∧ x.retrainTimer ≠ none then 1 else 0) ∧ bytesField b 12 4 = 0) ∧
    (∀ x : TimeSync, let b := timeReport x
      b.length = 32 ∧ bytesField b 0 4 = x.localTime.toNat ∧ bytesField b 4 2 = x.cycleTime % 65536 ∧
      bytesField b 6 1 = x.cycleCount % 256 ∧
      bytesField b 7 1 = (match x.sync with | .off => 0 | .unsynced => 1 | .acquiring => 2 | .locked => 3) ∧
      bytesField b 8 1 = (match x.role with | .follower => 0 | .backup => 1 | .leader => 2) ∧
      bytesField b 9 1 = (match x.trimState with | .tracking => 0 | .suspended => 1 | .frozen => 2) ∧
      bytesField b 10 1 = (if x.trimState = .suspended then x.goodRun % 256 else 0) ∧
      bytesField b 11 1 = bit x.hold + 2 * bit x.plan.isSome + 4 * bit x.lastLeader.isNone ∧
      bytesField b 12 4 = (BitVec.ofInt 32 x.trim).toNat ∧
      bytesField b 16 1 = (match x.lastLeader with | some l => l.1 % 256 | none => 0) ∧
      bytesField b 17 1 = (match x.lastLeader with | some l => l.2 % 256 | none => 0) ∧ bytesField b 18 14 = 0)

/-! ### Events (chapter 9) -/

/-- R154, R157, R158, R159: a posted event is accepted at the EQ tail with the phase in force while fewer than depth - 2
records are unconsumed; the next one sets the overflow, which later ones count in; in ERROR each is dropped and counted.
Both counts stop at 65535. Events are offered in the order posted; where no record write is in progress, the write of the
oldest accepted record begins with them (log entry 11), 16 bytes at base + 16 x its position; and in FATAL none is
accepted. -/
def Obligations.PostedEventsAreAcceptedOrCounted : Prop :=
  (∀ (w : EventWriter) (now : Count32) (e : Event),
    (w.state = .absent → w.offer now e = w) ∧
    (w.state = .error → w.offer now e = { w with dropped := if w.dropped < 65535 then w.dropped + 1 else 65535 }) ∧
    (w.state = .active →
      (∀ o, w.overflow = some o →
        w.offer now e = { w with overflow := some { o with count := if o.count < 65535 then o.count + 1 else 65535 } }) ∧
      (w.overflow = none →
        (w.depth ≤ w.occupancy + 2 →
          w.offer now e = { w with overflow := some { count := 1, time := now, kind := e.kind } }) ∧
        (w.occupancy + 2 < w.depth →
          (w.offer now e).queue = w.queue ++ [{ position := w.tail, phase := w.phase, event := e }] ∧
          (w.offer now e).overflow = none ∧ (w.offer now e).head = w.head ∧
          (w.tail + 1 = w.depth → (w.offer now e).tail = 0 ∧ (w.offer now e).phase = !w.phase) ∧
          (w.tail + 1 ≠ w.depth → (w.offer now e).tail = w.tail + 1 ∧ (w.offer now e).phase = w.phase))))) ∧
  (∀ (s : State) (events : List Event),
    let w := events.foldl (fun w e => w.offer s.sc.localTime e) s.ew
    (s.dev = .fatal → s.postAll events = s) ∧
    (s.dev ≠ .fatal → s.ew.queue ≠ [] ∨ s.ew.stray = true → s.postAll events = { s with ew := w }) ∧
    (s.dev ≠ .fatal → s.ew.queue = [] → s.ew.stray = false →
      (w.queue = [] → s.postAll events = { s with ew := w }) ∧
      (∀ r rest, w.queue = r :: rest → s.postAll events = { s with
        ew := w, outputs := .dmaWrite (w.base + BitVec.ofNat 64 (16 * r.position)) (eventBytes r) :: s.outputs }) ∧
      (∀ e rest, events = e :: rest → s.ew.state = .active → s.ew.overflow = none →
        s.ew.occupancy + 2 < s.ew.depth → (s.postAll events).outputs =
          .dmaWrite (s.ew.base + BitVec.ofNat 64 (16 * s.ew.tail))
            (eventBytes { position := s.ew.tail, phase := s.ew.phase, event := e }) :: s.outputs)))

/-- R155, R157, R158, R159, R160, R161, R162, section 11.3: EQ_HEAD_WRITE moves the head of an ACTIVE ring over written
records and sets armed, and an advance accepts the record of a set overflow at the tail, whose wrap inverts the phase,
its write beginning if none is in progress; another value puts the ring in ERROR with its losses counted. An event
write that ends well leaves the queue and may send a message, and the next begins in the same step (log entry 11); one
that fails puts the ring in ERROR. A write left from before a BAD_HEAD fault ends without effect, and the records of a
ring opened meanwhile wait for it (log entry 12); EVENT_WRITE_END with nothing in progress changes nothing (log entry
2). The record has the layout and the kind codes of section 11.3. -/
def Obligations.EventRingMovesOrFails : Prop :=
  (∀ (s : State) (v : Reg),
    let w := s.ew
    let advance := (v.toNat + w.depth - w.head) % w.depth
    let lost := match w.overflow with | some o => o.count | none => 0
    let fails := fun (cause : EventFault) (n : Nat) (stray : Bool) =>
      { s with ew := { w with
        state := .error, cause := cause, queue := [], overflow := none, stray := stray,
        dropped := min 65535 (w.dropped + (n + lost)) } }
    let headOk := v.toNat < w.depth ∧ advance ≤ w.occupancy - w.queue.length
    (s.serving = false ∨ w.state ≠ .active → exec (.eqHeadWrite v) s = .next s) ∧
    (s.serving = true → w.state = .active →
      (headOk → advance = 0 ∨ w.overflow = none →
        exec (.eqHeadWrite v) s = .next { s with ew := { w with head := v.toNat, armed := true } }) ∧
      (∀ o, headOk → 0 < advance → w.overflow = some o →
        let record : EventRecord := { position := w.tail, phase := w.phase, event :=
          { kind := .overflow, subject := BitVec.ofNat 16 o.kind.code, cycle := s.sc.cycleCount, time := o.time,
            detail := BitVec.ofNat 32 o.count } }
        exec (.eqHeadWrite v) s = .next { s with
          ew := { w with
            head := v.toNat, armed := true, overflow := none, queue := w.queue ++ [record],
            tail := if w.tail + 1 = w.depth then 0 else w.tail + 1,
            phase := if w.tail + 1 = w.depth then !w.phase else w.phase },
          outputs := (if w.queue = [] ∧ w.stray = false then
              [.dmaWrite (w.base + BitVec.ofNat 64 (16 * w.tail)) (eventBytes record)] else []) ++ s.outputs }) ∧
      (¬ headOk → w.stray = false →
        exec (.eqHeadWrite v) s = .next (fails .badHead (w.queue.length - 1) (decide (w.queue ≠ [])))) ∧
      (¬ headOk → w.stray = true → exec (.eqHeadWrite v) s = .next (fails .badHead w.queue.length true))) ∧
    (w.stray = false → ∀ r rest, w.queue = r :: rest →
      exec (.eventWriteEnd .error) s = .next (fails .writeError w.queue.length false) ∧
      exec (.eventWriteEnd .ok) s = .next { s with
        ew := { w with queue := rest, armed := w.armed && !w.intEnable },
        outputs :=
          (match rest with
            | [] => []
            | x :: _ => [.dmaWrite (w.base + BitVec.ofNat 64 (16 * x.position)) (eventBytes x)]) ++
          (if w.intEnable = true ∧ w.armed = true then [.message .eventRing] else []) ++ s.outputs }) ∧
    (w.stray = true → ∀ result, exec (.eventWriteEnd result) s = .next { s with
      ew := { w with stray := false },
      outputs :=
        (match w.queue with
          | [] => []
          | x :: _ => [.dmaWrite (w.base + BitVec.ofNat 64 (16 * x.position)) (eventBytes x)]) ++ s.outputs }) ∧
    (w.stray = false → w.queue = [] → ∀ result, exec (.eventWriteEnd result) s = .next s)) ∧
  (∀ r : EventRecord, IsEventRecord (eventBytes r) r) ∧
  ([.mark, .entryOutcome, .entryFailed, .matrixReport, .health, .syncState, .roleChange, .trimState, .noBeacon,
    .beaconRejected, .rankClash, .beaconClash, .halt, .laneState, .laneStaleReply, .ringFault, .queueFault,
    .overflow].map EventKind.code = (List.range 18).map fun n => n + 1)

/-! ### The device (chapter 10) -/

/-- R137, R163, R164, R166, R172: ENABLE set in OFF makes pair 0 ACTIVE from the admin registers and the device CONFIG,
or, where they describe no usable pair, FATAL with cause BAD_ADMIN; set again it changes nothing. A write of a whole
word at a register's offset is what its register makes of it, and one at any other offset, or of less than a word, is
ignored. A read of a whole word at a register's offset returns its content, STATUS the view of R164 field by field, and
any other read returns 0 (that reads are a function of the state is log entry 33). -/
def Obligations.RegisterWritesAndEnable : Prop :=
  (∀ s : State,
    let valid := s.adminSq.toNat % 64 = 0 ∧ s.adminCq.toNat % 64 = 0 ∧ 2 ≤ s.adminDepth.toNat ∧ s.adminDepth.toNat ≤ 12
    (s.enable = true → exec .enableSet s = .next s) ∧
    (s.enable = false → valid → exec .enableSet s = .next ({ s with enable := true, dev := .config }.setPair 0
      { state := .active, deleting := none, sqBase := s.adminSq.setWidth 64, cqBase := s.adminCq.setWidth 64,
        depth := 2 ^ s.adminDepth.toNat, sqTail := 0, sqHead := 0, cqTail := 0, cqPhase := true, cqHead := 0,
        outstanding := 0, intEnable := true, armed := true, cause := .none, handed := [], writing := none })) ∧
    (s.enable = false → ¬ valid → ∃ t, exec .enableSet s = .next t ∧ t.enable = true ∧ t.dev = .fatal ∧
      t.fatalCause = .badAdmin ∧ t.adminFault = .none ∧ t.sc.sync = .off ∧ t.cycle = none ∧ t.active = s.active ∧
      ∀ p : PairId, (t.pairs[p]).state = (s.pairs[p]).state)) ∧
  (∀ (s : State) (v : Reg),
    (∀ offset size, size ≠ 4 → exec (.registerWrite offset size v) s = .next s) ∧
    (v.getLsbD 0 = true → exec (.registerWrite 0x04 4 v) s = exec .enableSet s) ∧
    (v.getLsbD 0 = false → exec (.registerWrite 0x04 4 v) s = exec .enableClear s) ∧
    exec (.registerWrite 0x0C 4 v) s = .next { s with adminSq := v } ∧
    exec (.registerWrite 0x10 4 v) s = .next { s with adminCq := v } ∧
    exec (.registerWrite 0x14 4 v) s = .next { s with adminDepth := v.extractLsb' 0 4 } ∧
    (∀ p : PairId, exec (.registerWrite (0x18 + 4 * p.val) 4 v) s = exec (.sqTailWrite p v) s) ∧
    (∀ p : PairId, exec (.registerWrite (0x28 + 4 * p.val) 4 v) s = exec (.cqHeadWrite p v) s) ∧
    exec (.registerWrite 0x38 4 v) s = exec (.eqHeadWrite v) s ∧
    (∀ offset, offset = 0x00 ∨ offset = 0x08 ∨ offset % 4 ≠ 0 ∨ 0x38 < offset →
      exec (.registerWrite offset 4 v) s = .next s)) ∧
  (∀ s : State,
    let status := s.readRegister 0x08 4
    (∀ offset size, size ≠ 4 ∨ offset % 4 ≠ 0 ∨ 0x38 < offset → s.readRegister offset size = 0) ∧
    s.readRegister 0x00 4 = 0x0E580001 ∧ s.readRegister 0x04 4 = (if s.enable then 1 else 0) ∧
    s.readRegister 0x0C 4 = s.adminSq ∧ s.readRegister 0x10 4 = s.adminCq ∧
    s.readRegister 0x14 4 = BitVec.ofNat 32 s.adminDepth.toNat ∧
    (∀ p : PairId, s.readRegister (0x18 + 4 * p.val) 4 = BitVec.ofNat 32 (s.pairs[p]).sqTail) ∧
    (∀ p : PairId, s.readRegister (0x28 + 4 * p.val) 4 = BitVec.ofNat 32 (s.pairs[p]).cqHead) ∧
    s.readRegister 0x38 4 = BitVec.ofNat 32 s.ew.head ∧
    (status.extractLsb' 0 3).toNat =
      (match s.dev with | .off => 0 | .config => 1 | .running => 2 | .halted => 3 | .fatal => 4) ∧
    (status.extractLsb' 3 1).toNat = (if s.hm.degraded then 1 else 0) ∧
    (status.extractLsb' 4 2).toNat =
      (match s.sc.sync with | .off => 0 | .unsynced => 1 | .acquiring => 2 | .locked => 3) ∧
    (status.extractLsb' 6 2).toNat = (match s.sc.role with | .follower => 0 | .backup => 1 | .leader => 2) ∧
    (status.extractLsb' 8 1).toNat = (if s.ew.state = .error then 1 else 0) ∧
    (status.extractLsb' 9 2).toNat = (match s.fatalCause with | .none => 0 | .badAdmin => 1 | .adminQueue => 2) ∧
    (status.extractLsb' 11 3).toNat =
      (match s.adminFault with
        | .none => 0 | .badTail => 1 | .badHead => 2 | .fetchError => 3 | .cqWriteError => 4 | .bufferWriteError => 5) ∧
    (status.extractLsb' 14 2).toNat = (match s.haltCause with | .none => 0 | .rankClash => 1 | .beaconClash => 2) ∧
    status.extractLsb' 16 16 = 0)

/-- R98, R99, R104, R112, R113, R121, R129, R130, R131, R133, R169: START of a unit in CONFIG with a valid active table
makes it RUNNING and UNSYNCED with its role, time and trim at their start values, E counted and, with reports on, a
partial matrix record begun; SYNC_STATE is posted, and HEALTH if the conditions as they stand make the level DEGRADED;
lanes, rings and table stay, and so does a beacon left from before STOP (log entry 43). It is refused by the first of
its checks that applies. -/
def Obligations.StartBeginsTheCycle : Prop :=
  ∀ (s : State) (h : Held), s.heldCommand 0x70 = some h → h.pair = 0 →
    (reservedZero h.record [] = false → Answers .start s s.taken h .badField 0) ∧
    (reservedZero h.record [] = true →
      (s.dev ≠ .config → Answers .start s s.taken h .wrongState 0) ∧
      (s.dev = .config →
        (∀ v, s.validate s.activeEntries = some v →
          Answers .start s s.taken h v.status (pack [(v.first, 0), (v.second, 16)])) ∧
        (∀ p, s.validate s.activeEntries = none → s.sc.plan = some p →
          ∃ t, exec .start s = .next t ∧ t.dev = .running ∧ t.haltCause = .none ∧ t.sc.sync = .unsynced ∧
            t.sc.role = (if p.candidate then .backup else .follower) ∧ t.sc.localTime = 0 ∧ t.sc.cycleTime = 0 ∧
            t.sc.cycleCount = 0 ∧ t.sc.stuLeft = p.stu ∧ t.sc.trim = 0 ∧ t.sc.trimState = .tracking ∧
            t.sc.lastLeader = none ∧ t.sc.firstFreeRun = true ∧ t.sc.plan = some p ∧ t.sc.sending = s.sc.sending ∧
            t.hm.expected =
              ((s.activeEntries.filter fun e => e.kind.isLane).map fun e => p.matrix / e.period).sum ∧
            (p.reports = true → t.hm.matrixNumber = 1 ∧ ∃ m, t.hm.openRecord = some m ∧ m.number = 0 ∧
              m.isPartial = true ∧ m.expected = t.hm.expected ∧ m.done = 0 ∧ m.failed = 0 ∧ m.skipped = 0) ∧
            (p.reports = false → t.hm.openRecord = s.hm.openRecord) ∧ t.hm.closed = s.hm.closed ∧ t.healthNow = t.hm ∧
            (s.sc.sync = .off →
              let start : Event :=
                { kind := .syncState, subject := 0xFFFF, cycle := 0, time := 0, detail := pack [(1, 0), (1, 16)] }
              t.ew = (start :: if t.hm.degraded then [t.healthEvent false] else []).foldl
                (fun w e => w.offer 0 e) s.ew) ∧
            ((s.pairs[h.pair]).serves = true → t.pairs[h.pair].owed = (s.pairs[h.pair]).owed ++ [⟨h.ref, .ok, 0⟩]) ∧
            t.active = s.active ∧ t.edit = s.edit ∧ t.session = s.session ∧ t.lanes = s.lanes ∧ t.rings = s.rings)))

/-- R18, R66, R99, R104, R117, R121, R129, R131, R133, R134, R170: STOP of a unit that is not in CONFIG makes it CONFIG
with the time base stopped at 0, no cycle in hand, sync OFF, a LEADER BACKUP, a waiting RESIGN over, a pending commit
swapped and the open matrix record closed; plan, trim, rings and lane states stay, and exchanges in flight but for
firings whose record a swap does not carry over, which reach no record any more (R21). Deadlines in local time are
counted on in clocks: what is left of the STU in progress and the rest of the span at the effective STU length in
force, a fraction of a clock rounded to one side or the other (log entry 6). SYNC_STATE, ROLE_CHANGE and TRIM_STATE are
posted where they change, then, with local time 0, the reports that are ready and HEALTH if the level, evaluated once
after the reports (log entries 17 and 25), changes. ENTRY_REMOVED (log entry 24), the commit's OK and a waiting
RESIGN's CANCELLED precede the OK. It is refused in CONFIG. -/
def Obligations.StopReturnsToConfig : Prop :=
  ∀ (s : State) (h : Held), s.heldCommand 0x71 = some h → h.pair = 0 →
    (reservedZero h.record [] = false → Answers .stop s s.taken h .badField 0) ∧
    (reservedZero h.record [] = true →
      (s.dev = .config → Answers .stop s s.taken h .wrongState 0) ∧
      (s.dev ≠ .config → ∃ t, exec .stop s = .next t ∧ t.dev = .config ∧ t.cycle = none ∧ t.sc.sync = .off ∧
        t.sc.localTime = 0 ∧ t.sc.cycleTime = 0 ∧ t.sc.cycleCount = 0 ∧ t.sc.plan = s.sc.plan ∧
        t.sc.trim = s.sc.trim ∧ t.rings = s.rings ∧ t.slotQueue = s.slotQueue ∧
        (s.sc.sync ≠ .off → t.sc.receiving = none ∧ t.sc.hold = false ∧ (s.sc.hold = true → t.sc.resign = none) ∧
          (∀ b, t.sc.sending = some b → b.counts = false) ∧
          t.sc.role = (if s.sc.role = .leader then .backup else s.sc.role) ∧ t.sc.trimState = trimAfterLeading s) ∧
        (let last := s.hm.closed ++ s.hm.openRecord.toList.map fun m =>
            { m with
              expected := if s.pendingCommit = none then m.expected else t.hm.expected,
              isPartial := m.isPartial || decide (s.pendingCommit ≠ none) || decide (s.sc.sync = .locked) };
          t.hm.openRecord = none ∧ t.hm.closed = (last.filter fun m => decide (m.inFlight ≠ 0)) ∧ t.healthNow = t.hm ∧
          t.ew = (readyRecords last ++ healthChange s t).foldl (fun w e => w.offer 0 e)
            ((if s.sc.sync = .off then []
              else syncEvents s s.sc.cycleCount .off 6 ++ stepDown s s.sc.cycleCount 5).foldl
              (fun w e => w.offer s.sc.localTime e) s.ew)) ∧
        Hands s t ((s.pendingCommit.toList.flatMap fun ref => swapCompletions s ref) ++
          (if s.sc.sync ≠ .off ∧ s.sc.hold = true then
            s.sc.resign.toList.map fun ref => ⟨ref, .cancelled, 0⟩ else []) ++ [⟨h.ref, .ok, 0⟩]) ∧
        (∀ x, s.session = some x → x.commit ≠ none →
          t.activeEntries = s.edit ∧ t.session = none ∧ t.edit = []) ∧
        ((∀ x, s.session = some x → x.commit = none) →
          t.activeEntries = s.activeEntries ∧ t.session = s.session ∧ t.edit = s.edit) ∧
        (∀ ref p, s.pendingCommit = some ref → s.sc.plan = some p → Swapped s t p) ∧
        (s.pendingCommit = none → NotSwapped s t) ∧
        (∀ l : LaneId,
          t.lanes[l] = { s.lanes[l] with inFlight := (t.lanes[l]).inFlight } ∧
          ((s.lanes[l]).inFlight = none → (t.lanes[l]).inFlight = none) ∧
          (∀ x, (s.lanes[l]).inFlight = some x →
            let kept := if s.pendingCommit = none then x else afterSwap s x
            (∀ n, x.deadline = .inClocks n → (t.lanes[l]).inFlight = some kept) ∧
            (∀ time, x.deadline = .atLocal time →
              ∃ n, (t.lanes[l]).inFlight = some { kept with deadline := .inClocks n } ∧
                (time = s.sc.localTime → n = 0) ∧
                (∀ p, time ≠ s.sc.localTime → s.sc.plan = some p →
                  let exact := s.sc.stuLeft * 1000000 +
                    ((time - s.sc.localTime).toNat - 1) * effectiveMicro p.stu s.sc.trim
                  n * 1000000 < exact + 1000000 ∧ exact < (n + 1) * 1000000 ∧
                  (exact % 1000000 = 0 → n * 1000000 = exact)))))))

/-- R18, R19, R20, R21, R25, R54, R77, R99, R104, R111, R112, R118, R119, R120, R121, R129, R131, R133, R134: what a
taken edge does beside ValidBeaconIsTakenAsAnEdge and OwnBeaconElectsItsSender. The cycle it closes is measured in
sixteenths of an STU (whole ones exactly, others to one side or the other, log entry 6) by the role and the trim state
that the unit had (log entry 18), and the deviation is folded into the trim, suspends it, or counts toward its recovery.
Cycle time is the STU from the captured instant on, capped at 65535 (section 6.2, R99, log entry 19). At count 0 in
LOCKED a pending swap is performed, firings in flight whose record is not carried over reaching no record any more. A
count break, or a count that does not follow, flags the open record PARTIAL; count 0 closes it and, with reports on,
opens the next one, PARTIAL unless LOCKED; with reports off the matrix number stays (log entry 32). In LOCKED the
Dispatcher carries the open record as its tag from the first entry that fires (log entry 23), and every waiting host
exchange has one give-up more, the fourth completing LANE_NO_GAP in lane order (log entry 20). RESIGN's OK,
ENTRY_REMOVED (log entry 24), the commit's OK and LANE_NO_GAP are handed in this order; ROLE_CHANGE and TRIM_STATE,
SYNC_STATE, TRIM_STATE of a measurement, and reports that are ready with HEALTH (log entry 25), evaluated once (log
entry 13), are posted with the cycle count of the new cycle (log entry 30), TRIM_STATE before or after SYNC_STATE by the
model's choice (log entry 44). -/
def Obligations.EdgesSwapMeasureAndReport : Prop :=
  (∀ (c : Instr) (s : State) (p : Plan) (own : Bool) (e : Edge), TakesEdge c s p own e →
    let follows := e.count = (s.sc.cycleCount + 1) % p.matrix
    let after : SyncState := if s.sc.sync = .unsynced ∨ ¬ follows then .acquiring else .locked
    let elected := own = true ∧ e.restart = true ∧ s.sc.role ≠ .leader
    let displaced := own = false ∧ s.sc.role = .leader
    let resigned := own = false ∧ s.sc.hold = true
    let limit := (p.trimLimit : Int)
    let measured : Option Int := s.sc.opening.bind fun o =>
      if s.sc.role ≠ .leader ∧ s.sc.trimState ≠ .frozen ∧ after = .locked ∧ o.locked = true ∧ o.restart = false ∧
          e.restart = false then
        some (deviation (cycleSixteenths o.instant e.instant s.free) p.bm)
      else none
    let swaps := after = .locked ∧ e.count = 0
    let present := s.hm.openRecord.map fun m =>
      { m with
        isPartial := m.isPartial || decide (¬ follows),
        lastCycle := if after = .locked ∧ e.count ≠ 0 then e.count else m.lastCycle }
    let closing := s.hm.closed ++ if e.count = 0 then present.toList else []
    ∃ t, exec c s = .next t ∧ t.sc.sync = after ∧ t.sc.cycleCount = e.count ∧
      t.sc.cycleTime = min 65535 (s.sc.localTime - e.instant.time).toNat ∧ t.sc.role =
        (if elected then .leader else if displaced then .backup else s.sc.role) ∧
      (measured = none → t.sc.trim = s.sc.trim ∧
        t.sc.trimState = (if elected then .frozen else if displaced then trimAfterLeading s else s.sc.trimState) ∧
        t.sc.goodRun = (if displaced ∧ s.sc.trimState = .frozen ∧ s.sc.keptTrim = .suspended then 0 else s.sc.goodRun)) ∧
      (elected → t.sc.keptTrim = s.sc.trimState) ∧
      (∀ d, measured = some d → s.sc.trimState = .tracking →
        let new := s.sc.trim + d.tdiv 4
        ((new.natAbs : Int) ≤ limit → t.sc.trim = new ∧ t.sc.trimState = .tracking ∧ t.sc.goodRun = s.sc.goodRun) ∧
        (limit < (new.natAbs : Int) → t.sc.trim = 0 ∧ t.sc.trimState = .suspended ∧ t.sc.goodRun = 0)) ∧
      (∀ d, measured = some d → s.sc.trimState = .suspended →
        (limit < (d.natAbs : Int) →
          t.sc.trim = s.sc.trim ∧ t.sc.trimState = .suspended ∧ t.sc.goodRun = 0) ∧
        ((d.natAbs : Int) ≤ limit → s.sc.goodRun + 1 < 3 →
          t.sc.trim = s.sc.trim ∧ t.sc.trimState = .suspended ∧ t.sc.goodRun = s.sc.goodRun + 1) ∧
        ((d.natAbs : Int) ≤ limit → 3 ≤ s.sc.goodRun + 1 →
          t.sc.trim = d ∧ t.sc.trimState = .tracking ∧ t.sc.goodRun = 0)) ∧
      (∀ ref, s.pendingCommit = some ref → swaps → Swapped s t p) ∧
      (s.pendingCommit = none ∨ ¬ swaps → NotSwapped s t) ∧
      (∀ l : LaneId, t.lanes[l] = { s.lanes[l] with
        queue := if after = .locked then
            (s.lanes[l].queue.map fun q => { q with giveUps := q.giveUps + 1 }).filter fun q => decide (q.giveUps < 4)
          else s.lanes[l].queue,
        inFlight := if swaps ∧ s.pendingCommit ≠ none then s.lanes[l].inFlight.map (afterSwap s)
          else s.lanes[l].inFlight }) ∧
      Hands s t
        ((if resigned then s.sc.resign.toList.map fun ref => ⟨ref, .ok, pack [(e.rank, 0), (e.unit, 8)]⟩ else []) ++
          (if swaps then s.pendingCommit.toList.flatMap fun ref => swapCompletions s ref else []) ++
          (if after = .locked then s.fourthGiveUps.map fun ref => ⟨ref, .laneNoGap, 0⟩ else [])) ∧
      t.hm.closed = (if e.count = 0 then closing.filter fun m => decide (m.inFlight ≠ 0) else s.hm.closed) ∧
      t.hm.openRecord =
        (if e.count ≠ 0 then present
        else if p.reports then
          some { id := s.hm.nextId, number := s.hm.matrixNumber, expected := t.hm.expected, done := 0, failed := 0,
                 skipped := 0, isPartial := decide (after ≠ .locked), lastCycle := 0, inFlight := 0 }
        else none) ∧
      t.hm.matrixNumber = (if e.count = 0 ∧ p.reports then (s.hm.matrixNumber + 1) % 256 else s.hm.matrixNumber) ∧
      t.healthNow = t.hm ∧
      t.cycle =
        (if after = .locked then
          some { count := e.count, tag := t.hm.openRecord.map MatrixRecord.id,
                 position := t.active.findIdx fun a => decide (e.count % a.entry.period = a.entry.phase) }
        else none) ∧
      t.sc.opening = some { instant := e.instant, locked := decide (after = .locked), restart := e.restart } ∧
      Posts s t
        ((if elected then [roleEvent s e.count .leader 1, trimEvent s e.count .frozen s.sc.trim]
          else if own then [] else stepDown s e.count (if s.sc.hold then 3 else 2)) ++
          syncEvents s e.count after
            (match s.sc.sync with | .unsynced => 2 | .acquiring => 3 | _ => 4) ++
          (if measured = none ∨ t.sc.trimState = s.sc.trimState then []
          else [trimEvent s e.count t.sc.trimState t.sc.trim]))
        ((if e.count = 0 then readyRecords closing else []) ++ healthChange s t) ∧
      t.sc.plan = s.sc.plan ∧ t.sc.localTime = s.sc.localTime ∧ t.sc.stuLength = s.sc.stuLength ∧
      t.sc.stuLeft = s.sc.stuLeft ∧ t.dev = s.dev ∧ t.rings = s.rings ∧ t.slotQueue = s.slotQueue) ∧
  (∀ (a b : Instant) (n : Nat), 0 < a.length → 0 < b.length →
    let whole := ((b.time - a.time).toNat * a.length * b.length + b.clocks * a.length : Int) - a.clocks * b.length
    let unit := (a.length * b.length : Int)
    0 ≤ whole →
      unit * cycleSixteenths a b n < 16 * whole + unit ∧ 16 * whole < unit * cycleSixteenths a b n + unit ∧
      (unit ∣ 16 * whole → unit * cycleSixteenths a b n = 16 * whole)) ∧
  (∀ sixteenths bm : Nat, 0 < bm →
    let exact := ((sixteenths : Int) - 16 * bm) * 1000000
    let d := deviation sixteenths bm
    2 * (exact - 16 * bm * d).natAbs ≤ 16 * bm ∧
    (2 * (exact - 16 * bm * d).natAbs = 16 * bm → exact.natAbs ≤ 16 * bm * d.natAbs))
end

