-- ==== Sys2Proof/WellFormed.lean ====
section
/-! DEFINITION. Which terms of `Instr` stand for something that can be presented to the part: the ranges of the
operands that their types leave wider than the manual does. The machine is total all the same: an ill-formed term
changes nothing (log entry 2). -/

namespace Sys2Proof

/-- The ranges of a command's operands: an access is 1 to 4 bytes (R163); a frame on the sync pair has at most 61 bits
(R100); arbitration is lost in bits 0 to 15 and a clash is found in bits 16 to 60 (R102, R103, section 11.5). -/
def Instr.wellFormed : Instr → Bool
  | .registerWrite _ size _ => decide (1 ≤ size ∧ size ≤ 4)
  | .beaconReceived bits => decide (bits.length ≤ 61)
  | .arbitrationLoss position => decide (position ≤ 15)
  | .beaconClash position => decide (16 ≤ position ∧ position ≤ 60)
  | _ => true

end Sys2Proof
end

