-- ==== Sys2Proof/Laws/PerInstr.lean ====
section
/-! SUPPORT. Statements about a command as syntax, one lemma per constructor of `Instr`. The family `Operands`: which
operands `wellFormed` admits. -/

namespace Sys2Proof.Laws

/-- The operands a well-formed command has: an access of 1 to 4 bytes (R163), at most 61 bits of a frame on the sync pair
(R100), arbitration lost in bits 0 to 15 (R102), a clash found in bits 16 to 60 (R103); every other command is
well-formed with every operand its type admits. -/
def Operands.Statement : Instr → Prop
  | .registerWrite offset size value =>
    (Instr.registerWrite offset size value).wellFormed = true ↔ 1 ≤ size ∧ size ≤ 4
  | .beaconReceived bits => (Instr.beaconReceived bits).wellFormed = true ↔ bits.length ≤ 61
  | .arbitrationLoss position => (Instr.arbitrationLoss position).wellFormed = true ↔ position ≤ 15
  | .beaconClash position => (Instr.beaconClash position).wellFormed = true ↔ 16 ≤ position ∧ position ≤ 60
  | i => i.wellFormed = true

theorem Operands.editBegin : Operands.Statement .editBegin := rfl
theorem Operands.entryInsert : Operands.Statement .entryInsert := rfl
theorem Operands.entryRemove : Operands.Statement .entryRemove := rfl
theorem Operands.entryModify : Operands.Statement .entryModify := rfl
theorem Operands.readEntry : Operands.Statement .readEntry := rfl
theorem Operands.editCommit : Operands.Statement .editCommit := rfl
theorem Operands.editDiscard : Operands.Statement .editDiscard := rfl
theorem Operands.stageValues : Operands.Statement .stageValues := rfl
theorem Operands.entryClearValues : Operands.Statement .entryClearValues := rfl
theorem Operands.entryRearm : Operands.Statement .entryRearm := rfl
theorem Operands.laneConfigure : Operands.Statement .laneConfigure := rfl
theorem Operands.trainLane : Operands.Statement .trainLane := rfl
theorem Operands.laneExchange : Operands.Statement .laneExchange := rfl
theorem Operands.readLane : Operands.Statement .readLane := rfl
theorem Operands.ringCreate : Operands.Statement .ringCreate := rfl
theorem Operands.ringRelease : Operands.Statement .ringRelease := rfl
theorem Operands.ringDelete : Operands.Statement .ringDelete := rfl
theorem Operands.setCyclePlan : Operands.Statement .setCyclePlan := rfl
theorem Operands.readTime : Operands.Statement .readTime := rfl
theorem Operands.resign : Operands.Statement .resign := rfl
theorem Operands.eventsOpen : Operands.Statement .eventsOpen := rfl
theorem Operands.queueCreate : Operands.Statement .queueCreate := rfl
theorem Operands.queueDelete : Operands.Statement .queueDelete := rfl
theorem Operands.start : Operands.Statement .start := rfl
theorem Operands.stop : Operands.Statement .stop := rfl
theorem Operands.badOpcode : Operands.Statement .badOpcode := rfl
theorem Operands.enableSet : Operands.Statement .enableSet := rfl
theorem Operands.enableClear : Operands.Statement .enableClear := rfl
theorem Operands.functionLevelReset : Operands.Statement .functionLevelReset := rfl
theorem Operands.deviceReset : Operands.Statement .deviceReset := rfl
theorem Operands.sqTailWrite (pair : PairId) (value : Reg) : Operands.Statement (.sqTailWrite pair value) := rfl
theorem Operands.cqHeadWrite (pair : PairId) (value : Reg) : Operands.Statement (.cqHeadWrite pair value) := rfl
theorem Operands.eqHeadWrite (value : Reg) : Operands.Statement (.eqHeadWrite value) := rfl
theorem Operands.registerWrite (offset size : Nat) (value : Reg) :
    Operands.Statement (.registerWrite offset size value) := by simp [Operands.Statement, Instr.wellFormed]
theorem Operands.fetchDecision : Operands.Statement .fetchDecision := rfl
theorem Operands.fetchEnd (result : DmaRead) : Operands.Statement (.fetchEnd result) := rfl
theorem Operands.cqWriteEnd (pair : PairId) (result : DmaWrite) : Operands.Statement (.cqWriteEnd pair result) := rfl
theorem Operands.queueDeleteFinish (pair : PairId) : Operands.Statement (.queueDeleteFinish pair) := rfl
theorem Operands.bufferWriteEnd (index : Nat) (result : DmaWrite) :
    Operands.Statement (.bufferWriteEnd index result) := rfl
theorem Operands.markReached : Operands.Statement .markReached := rfl
theorem Operands.replyComplete (lane : LaneId) (cells : List LineCell) : Operands.Statement (.replyComplete lane cells) := rfl
theorem Operands.exchangeDeadline (lane : LaneId) : Operands.Statement (.exchangeDeadline lane) := rfl
theorem Operands.lineIdleTimeout (lane : LaneId) (cells : List LineCell) :
    Operands.Statement (.lineIdleTimeout lane cells) := rfl
theorem Operands.staleFrame (lane : LaneId) (cells : List LineCell) : Operands.Statement (.staleFrame lane cells) := rfl
theorem Operands.probeInterval (lane : LaneId) : Operands.Statement (.probeInterval lane) := rfl
theorem Operands.retrainTimerExpiry (lane : LaneId) : Operands.Statement (.retrainTimerExpiry lane) := rfl
theorem Operands.hostExchangeStart (lane : LaneId) : Operands.Statement (.hostExchangeStart lane) := rfl
theorem Operands.slotWriteStart : Operands.Statement .slotWriteStart := rfl
theorem Operands.slotWriteEnd (result : DmaWrite) : Operands.Statement (.slotWriteEnd result) := rfl
theorem Operands.ringDeleteFinish (ring : RingId) : Operands.Statement (.ringDeleteFinish ring) := rfl
theorem Operands.beaconCapture : Operands.Statement .beaconCapture := rfl
theorem Operands.beaconReceived (bits : List Bool) :
    Operands.Statement (.beaconReceived bits) := by simp [Operands.Statement, Instr.wellFormed]
theorem Operands.leaderBeaconStart : Operands.Statement .leaderBeaconStart := rfl
theorem Operands.backupBeaconStart : Operands.Statement .backupBeaconStart := rfl
theorem Operands.freeRunBeaconStart : Operands.Statement .freeRunBeaconStart := rfl
theorem Operands.ownBeaconEnd : Operands.Statement .ownBeaconEnd := rfl
theorem Operands.arbitrationLoss (position : Nat) :
    Operands.Statement (.arbitrationLoss position) := by simp [Operands.Statement, Instr.wellFormed]
theorem Operands.beaconClash (position : Nat) :
    Operands.Statement (.beaconClash position) := by simp [Operands.Statement, Instr.wellFormed]
theorem Operands.watchExpiry : Operands.Statement .watchExpiry := rfl
theorem Operands.freeRunCycle : Operands.Statement .freeRunCycle := rfl
theorem Operands.haltedCycleRestart : Operands.Statement .haltedCycleRestart := rfl
theorem Operands.matrixReport : Operands.Statement .matrixReport := rfl
theorem Operands.eventWriteEnd (result : DmaWrite) : Operands.Statement (.eventWriteEnd result) := rfl
theorem Operands.laneFrameBegins (lane : LaneId) : Operands.Statement (.laneFrameBegins lane) := rfl
theorem Operands.cutOffReplyEnds (lane : LaneId) : Operands.Statement (.cutOffReplyEnds lane) := rfl

end Sys2Proof.Laws
end

