-- ==== Sys2Proof/Laws/Settle.lean ====
section
/-! SUPPORT. What settling an outcome does (R37), said once: the state and the events of `Work.settle` are those of `Settled`
and `Settles`, for every table that holds each handle once (R3). -/

namespace Sys2Proof.Machine

/-! ### The record a firing reaches (R21) -/

/-- The record the Health Monitor and the Value Store act on, as they look it up. -/
def State.reached (s : State) (f : Firing) : Option ActiveEntry :=
  if f.attached then s.findActive f.handle else none

/-- In a table that holds each handle once, what passes a test by handle is the first that does. -/
theorem filter_eq_find? {l : List ActiveEntry} (h : ((l.map ActiveEntry.entry).map Entry.handle).Nodup) (n : Nat) :
    (l.filter fun a => decide (a.entry.handle = n)) = (l.find? fun a => decide (a.entry.handle = n)).toList := by
  induction l with
  | nil => rfl
  | cons x xs ih =>
    simp only [List.map_cons, List.nodup_cons] at h
    by_cases hx : x.entry.handle = n
    · have : (xs.filter fun a => decide (a.entry.handle = n)) = [] := by
        rw [List.filter_eq_nil_iff]
        intro a ha hc
        exact h.1 (by simp only [List.map_map, List.mem_map]; exact ⟨a, ha, by simpa [hx] using hc⟩)
      simp [hx, this]
    · simp [hx, ih h.2]

/-- The records a settled outcome reaches are the one that is looked up (R3, R21). -/
theorem reachedBy_eq {s : State} (h : (s.activeEntries.map Entry.handle).Nodup) (f : Firing) :
    reachedBy s f = (s.reached f).toList := by
  unfold reachedBy State.reached
  cases f.attached
  · simp
  · simpa [State.findActive] using filter_eq_find? h f.handle

/-- A firing that reaches no record meets none of the table. -/
theorem reached_none {s : State} {f : Firing} (h : s.reached f = none) {a : ActiveEntry} (ha : a ∈ s.active) :
    ¬ (f.attached = true ∧ a.entry.handle = f.handle) := by
  rintro ⟨hf, hh⟩
  simp only [State.reached, hf, if_true, State.findActive, List.find?_eq_none] at h
  exact h a ha (by simpa using hh)

/-- The record a firing reaches has its handle, in a firing still attached. -/
theorem reached_some {s : State} {f : Firing} {a : ActiveEntry} (h : s.reached f = some a) :
    f.attached = true ∧ a.entry.handle = f.handle := by
  unfold State.reached at h
  split at h
  · exact ⟨‹_›, by simpa using List.find?_some h⟩
  · cases h

/-- The table with the record that `f` reaches changed by `g`. -/
def State.onReached (s : State) (f : Firing) (g : ActiveEntry → Runtime) : List ActiveEntry :=
  s.active.map fun a => if f.attached = true ∧ a.entry.handle = f.handle then { a with run := g a } else a

/-- A firing that reaches no record changes none. -/
theorem onReached_none {s : State} {f : Firing} (h : s.reached f = none) (g : ActiveEntry → Runtime) :
    s.onReached f g = s.active := by
  unfold State.onReached
  conv => rhs; rw [← List.map_id s.active]
  exact List.map_congr_left fun a ha => if_neg (reached_none h ha)

/-! ### The score (R124, R125) -/

/-- Evaluating the level sets it and the conditions as they stand, and posts HEALTH where the level changes (R129). -/
theorem Work.evaluate_spec (w : Work) :
    w.evaluate =
      { s := { w.s with hm := w.s.healthNow }, others := w.others,
        health := w.health ++ healthChange w.s { w.s with hm := w.s.healthNow } } := by
  unfold Work.evaluate healthChange
  dsimp only
  split
  · rw [List.append_nil]
  · rfl

/-- ENTRY_FAILED, where an outcome brings the score of a record that is not disabled to 15 (R125). -/
def failedEvents (f : Firing) (o : Verdict) (r : Runtime) : List Event :=
  if r.disabled = false ∧ (r.scored o).score = 15 then [f.failedEvent o] else []

/-- The table after the outcome has been scored (R21, R124). -/
def State.scoredTable (s : State) (f : Firing) (o : Verdict) : State :=
  { s with active := s.onReached f fun a => a.run.scored o }

/-- Without a record to reach, an outcome is not scored (R21). -/
theorem Work.score_none {w : Work} {f : Firing} (h : w.s.reached f = none) (o : Verdict) : w.score f o = w := by
  unfold State.reached at h
  unfold Work.score
  rw [h]

/-- The Health Monitor's part of a settled outcome: the record reached is scored, ENTRY_FAILED is posted where its score
has come to 15, and the level is evaluated (R124, R125, R129). -/
theorem Work.score_some {w : Work} {f : Firing} {a : ActiveEntry} (h : w.s.reached f = some a) (o : Verdict) :
    w.score f o =
      { s := { w.s.scoredTable f o with hm := (w.s.scoredTable f o).healthNow }, others := w.others,
        health := w.health ++ failedEvents f o a.run ++
          healthChange w.s { w.s.scoredTable f o with hm := (w.s.scoredTable f o).healthNow } } := by
  have hr := (reached_some h).1
  have hs : w.s.updateRun f.handle (fun r => r.scored o) = w.s.scoredTable f o := by
    simp [State.updateRun, State.scoredTable, State.onReached, hr]
  have hd : (!a.run.disabled && (a.run.scored o).disabled) =
      decide (a.run.disabled = false ∧ (a.run.scored o).score = 15) := by
    unfold Runtime.scored
    cases hb : a.run.disabled <;> simp
  unfold State.reached at h
  unfold Work.score
  rw [h]
  simp only [Work.evaluate_spec, Work.on, hs, hd, failedEvents]
  by_cases hc : a.run.disabled = false ∧ (a.run.scored o).score = 15
  · rw [if_pos (decide_eq_true hc), if_pos hc]
    rfl
  · rw [if_neg (by simpa using hc), if_neg hc, List.append_nil]
    rfl

/-! ### The matrix record (R132, R134) -/

/-- Counting an outcome, whole. -/
theorem MatrixRecord.withOutcome_eq (m : MatrixRecord) (o : Verdict) (started : Bool) :
    m.withOutcome o started = { m.counted o with inFlight := if started then m.inFlight - 1 else m.inFlight } := by
  have h (n : Nat) : (if n < 65535 then n + 1 else 65535) = capped n := by
    unfold capped
    split <;> omega
  cases o <;> simp [MatrixRecord.withOutcome, MatrixRecord.counted, h]

/-- An outcome is counted in the record that its tag names; closed records left without an exchange are posted and
discarded (R132, R134). -/
theorem Work.count_spec (w : Work) (f : Firing) (o : Verdict) (started : Bool) :
    w.count f o started =
      { s := { w.s with hm := { w.s.hm with
                 openRecord := w.s.hm.openRecord.map (namedBy f o started),
                 closed := (w.s.hm.closed.map (namedBy f o started)).filter fun m => decide (m.inFlight ≠ 0) } },
        others := w.others, health := w.health ++ readyRecords (w.s.hm.closed.map (namedBy f o started)) } := by
  have h : namedBy f o started = fun m => if f.tag = some m.id then
      { m.counted o with inFlight := if started then m.inFlight - 1 else m.inFlight } else m := by
    funext m
    unfold namedBy
    rw [m.withOutcome_eq]
  rw [h]
  rfl

/-! ### The value slots (R48, R52) -/

/-- The completion of an ON_WIRE deferred STAGE, where there is one (R48). -/
def stageCompletions (f : Firing) (o : Verdict) (a : ActiveEntry) : Option Completion :=
  a.run.stage.bind fun d =>
    if d.onWire then
      some { ref := d.ref, status := if o = .done then .ok else .exchangeFailed,
             result := pack [(o.code, 0), (f.cycle, 8)] }
    else none

/-- In a table that holds each handle once, what is changed by the mode of the record looked up is changed by its own. -/
theorem onReached_congr {s : State} (hn : (s.activeEntries.map Entry.handle).Nodup) {f : Firing} {a : ActiveEntry}
    (h : s.reached f = some a) {g k : ActiveEntry → Runtime} (hg : g a = k a) : s.onReached f g = s.onReached f k := by
  refine List.map_congr_left fun b hb => ?_
  split
  · rename_i hc
    have hm : b ∈ reachedBy s f := List.mem_filter.mpr ⟨hb, by simpa using hc⟩
    rw [reachedBy_eq hn, h] at hm
    simp only [Option.toList_some, List.mem_singleton] at hm
    rw [hm, hg]
  · rfl

/-- The table after the value slots have taken the outcome (R52). -/
def State.settledTable (s : State) (f : Firing) : State :=
  { s with active := s.onReached f fun a => a.run.settled a.entry.mode }

/-- The Value Store's part of a settled outcome, with the record it reaches (R48, R52). -/
theorem State.settleValues_some {s : State} (hn : (s.activeEntries.map Entry.handle).Nodup) {f : Firing}
    {a : ActiveEntry} (h : s.reached f = some a) (o : Verdict) :
    s.settleValues f o =
      match a.run.stage with
      | some d => if d.onWire then (s.settledTable f).completeStage d f o else s.settledTable f
      | none => s.settledTable f := by
  have ht : s.updateRun f.handle (fun r => r.settled a.entry.mode) = s.settledTable f := by
    unfold State.settledTable
    rw [← onReached_congr hn h (g := fun b => b.run.settled a.entry.mode) rfl]
    simp [State.updateRun, State.onReached, (reached_some h).1]
  unfold State.reached at h
  unfold State.settleValues
  rw [h]
  dsimp only
  cases a.run.stage <;> simp only [ht]

/-- The Value Store's part of a settled outcome of a firing that took a set: its slots, and the completion of an ON_WIRE
deferred STAGE (R48, R52). -/
theorem State.settleValues_spec {s : State} (hn : (s.activeEntries.map Entry.handle).Nodup) (f : Firing) (o : Verdict) :
    (∃ ps os, s.settleValues f o = { s.settledTable f with pairs := ps, outputs := os }) ∧
    Hands s (s.settleValues f o) ((reachedBy s f).filterMap (stageCompletions f o)) := by
  rw [reachedBy_eq hn]
  cases h : s.reached f with
  | none =>
    have hs : s.settleValues f o = s := by
      unfold State.reached at h
      unfold State.settleValues
      rw [h]
    rw [hs, State.settledTable, onReached_none h]
    exact ⟨⟨s.pairs, s.outputs, rfl⟩, .refl rfl⟩
  | some a =>
    have hk : ∃ cs, stageCompletions f o a = cs := ⟨_, rfl⟩
    rw [State.settleValues_some hn h]
    obtain ⟨cs, hc⟩ := hk
    rw [Option.toList_some, List.filterMap_cons, List.filterMap_nil, hc]
    unfold stageCompletions at hc
    split
    · rename_i d hd
      rw [hd, Option.bind_some] at hc
      split
      · rename_i hw
        rw [if_pos hw] at hc
        subst hc
        obtain ⟨ps, os, hs⟩ := (s.settledTable f).complete_shape d.ref (if o = .done then .ok else .exchangeFailed)
          (pack [(o.code, 0), (f.cycle, 8)])
        exact ⟨⟨ps, os, hs⟩, fun p hp => (s.settledTable f).complete_Hands _ _ _ p hp⟩
      · rename_i hw
        rw [if_neg hw] at hc
        subst hc
        exact ⟨⟨s.pairs, s.outputs, rfl⟩, .refl rfl⟩
    · rename_i hd
      rw [hd, Option.bind_none] at hc
      subst hc
      exact ⟨⟨s.pairs, s.outputs, rfl⟩, .refl rfl⟩

/-! ### The level after the slots have changed (R128) -/

/-- The four conditions read of a record only its score and its disabled flag. -/
theorem healthNow_settledTable (s : State) (f : Firing) :
    (s.settledTable f).weakCount = s.weakCount ∧ (s.settledTable f).disabledCount = s.disabledCount ∧
    (s.settledTable f).laneIsDown = s.laneIsDown := by
  refine ⟨?_, ?_, ?_⟩
  · unfold State.weakCount State.settledTable State.onReached
    rw [List.countP_map]
    congr 1
    funext a
    simp only [Function.comp, ActiveEntry.isWeak]
    split <;> rfl
  · unfold State.disabledCount State.settledTable State.onReached
    rw [List.countP_map]
    congr 1
    funext a
    simp only [Function.comp]
    split <;> rfl
  · unfold State.laneIsDown State.settledTable State.onReached
    dsimp only
    rw [List.any_map]
    congr 2
    funext a
    simp only [Function.comp]
    split <;> rfl

/-! ### A settled outcome, whole (R37) -/

/-- The state once the Health Monitor has scored and counted an outcome. -/
def State.judged (s : State) (f : Firing) (o : Verdict) (started : Bool) : State :=
  let u : State := s.scoredTable f o
  { u with hm := { (if s.reached f = none then s.hm else u.healthNow) with
      openRecord := s.hm.openRecord.map (namedBy f o started),
      closed := (s.hm.closed.map (namedBy f o started)).filter fun m => decide (m.inFlight ≠ 0) } }

/-- What the Health Monitor posts as it scores an outcome: ENTRY_FAILED and HEALTH. -/
def State.scoreEvents (s : State) (f : Firing) (o : Verdict) : List Event :=
  match s.reached f with
  | none => []
  | some a => failedEvents f o a.run ++
      healthChange s { s.scoredTable f o with hm := (s.scoredTable f o).healthNow }

/-- The Health Monitor's part of a settled outcome, whole (R124, R125, R129, R132, R134). -/
theorem Work.judged_spec (w : Work) (f : Firing) (o : Verdict) (started : Bool) :
    (w.score f o).count f o started =
      { s := w.s.judged f o started, others := w.others,
        health := w.health ++ (w.s.scoreEvents f o ++ readyRecords (w.s.hm.closed.map (namedBy f o started))) } := by
  rw [Work.count_spec]
  cases h : w.s.reached f with
  | none =>
    rw [Work.score_none h]
    simp only [State.judged, State.scoreEvents, State.scoredTable, h, onReached_none h, if_true, List.nil_append]
  | some a =>
    rw [Work.score_some h]
    simp only [State.judged, State.scoreEvents, h, if_neg (Option.some_ne_none a), List.append_assoc]
    rfl

/-- What settling an outcome does, whole: the Health Monitor's part, the Value Store's where the firing took a set, and
ENTRY_OUTCOME where notify asks. -/
theorem Work.settle_spec (w : Work) (f : Firing) (o : Verdict) (slot : Nat) (started : Bool) :
    w.settle f o slot started =
      { s := if started && f.kind.sends then (w.s.judged f o started).settleValues f o else w.s.judged f o started,
        others := w.others ++ outcomeEvents f o slot,
        health := w.health ++ (w.s.scoreEvents f o ++ readyRecords (w.s.hm.closed.map (namedBy f o started))) } := by
  have ho : outcomeEvents f o slot = if f.notify.wants o then [f.outcomeEvent o slot] else [] := by
    unfold outcomeEvents Notify.wants Firing.outcomeEvent
    cases f.notify <;> simp
  unfold Work.settle
  rw [Work.judged_spec, ho]
  dsimp only
  cases f.notify.wants o <;> cases started && f.kind.sends <;> simp [Work.on, Work.post]

/-- A score keeps the handles of the table (R3). -/
theorem State.judged_entries (s : State) (f : Firing) (o : Verdict) (started : Bool) :
    (s.judged f o started).activeEntries = s.activeEntries := by
  unfold State.activeEntries State.judged State.scoredTable State.onReached
  dsimp only
  rw [List.map_map]
  refine List.map_congr_left fun a _ => ?_
  simp only [Function.comp]
  split <;> rfl

/-- A score keeps the deferred STAGE of every record (R48). -/
theorem State.judged_stages (s : State) (f : Firing) (o : Verdict) (started : Bool) :
    (reachedBy (s.judged f o started) f).filterMap (stageCompletions f o) =
      (reachedBy s f).filterMap (stageCompletions f o) := by
  unfold reachedBy State.judged State.scoredTable State.onReached
  dsimp only
  rw [List.filter_map, List.filterMap_map]
  have h (a : ActiveEntry) : stageCompletions f o
      (if f.attached = true ∧ a.entry.handle = f.handle then { a with run := a.run.scored o } else a) =
      stageCompletions f o a := by
    unfold stageCompletions Runtime.scored
    split <;> dsimp only
    split <;> rfl
  have k (a : ActiveEntry) :
      (if f.attached = true ∧ a.entry.handle = f.handle then { a with run := a.run.scored o } else a).entry = a.entry := by
    split <;> rfl
  simp only [Function.comp_def, h, k]

/-- What the Health Monitor posts of the level depends on the level and its conditions alone (R129). -/
theorem healthChange_congr (s : State) {t u : State}
    (hm : t.hm.degraded = u.hm.degraded ∧ t.hm.weakEntry = u.hm.weakEntry ∧ t.hm.disabledEntry = u.hm.disabledEntry ∧
      t.hm.trimSuspended = u.hm.trimSuspended ∧ t.hm.laneDown = u.hm.laneDown)
    (hw : t.weakCount = u.weakCount ∧ t.disabledCount = u.disabledCount) (hs : t.sc = u.sc) :
    healthChange s t = healthChange s u := by
  unfold healthChange State.healthEvent State.event
  rw [hm.1, hm.2.1, hm.2.2.1, hm.2.2.2.1, hm.2.2.2.2, hw.1, hw.2, hs]

/-- The level of a judged table stays the one of its conditions (R128, R129). -/
theorem State.judged_level {s : State} {f : Firing} {a : ActiveEntry} (h : s.reached f = some a) (o : Verdict)
    (started : Bool) : (s.judged f o started).healthNow = (s.judged f o started).hm := by
  unfold State.judged
  simp only [h, if_neg (Option.some_ne_none a)]
  rfl

/-- The value slots and handed completions leave the level. -/
theorem healthNow_after (s : State) (f : Firing) (ps : Vector Pair 4) (os : List Output) :
    ({ s.settledTable f with pairs := ps, outputs := os } : State).healthNow = s.healthNow := by
  obtain ⟨hw, hd, hl⟩ := healthNow_settledTable s f
  unfold State.healthNow
  change ({ s.hm with
    weakEntry := decide (0 < (s.settledTable f).weakCount),
    disabledEntry := decide (0 < (s.settledTable f).disabledCount),
    trimSuspended := decide (s.sc.trimState = .suspended),
    laneDown := (s.settledTable f).laneIsDown,
    degraded := decide (0 < (s.settledTable f).weakCount) || decide (0 < (s.settledTable f).disabledCount) ||
      decide (s.sc.trimState = .suspended) || (s.settledTable f).laneIsDown } : HealthMonitor) = _
  rw [hw, hd, hl]

/-- The state after a settled outcome: the judged one, with the value slots and completions of a firing that took a set. -/
def State.afterOutcome (s : State) (f : Firing) (o : Verdict) (started : Bool) : State :=
  if started && f.kind.sends then (s.judged f o started).settleValues f o else s.judged f o started

/-- The kinds that take a set. -/
theorem sends_iff (started : Bool) (k : Kind) :
    (started && k.sends) = true ↔ started = true ∧ (k = .send ∨ k = .swap) := by
  cases started <;> cases k <;> simp [Kind.sends]

/-- The state after a settled outcome, up to what completions change, and the completions (R48). -/
theorem State.afterOutcome_spec {s : State} (hn : (s.activeEntries.map Entry.handle).Nodup) (f : Firing) (o : Verdict)
    (started : Bool) :
    (∃ ps os, s.afterOutcome f o started =
      { (if started && f.kind.sends then (s.judged f o started).settledTable f else s.judged f o started) with
        pairs := ps, outputs := os }) ∧
    Hands s (s.afterOutcome f o started)
      ((if started && f.kind.sends then reachedBy s f else []).filterMap (stageCompletions f o)) := by
  unfold State.afterOutcome
  cases started && f.kind.sends
  · exact ⟨⟨s.pairs, s.outputs, rfl⟩, .refl rfl⟩
  · have := State.settleValues_spec (by rwa [s.judged_entries f o started]) f o (s := s.judged f o started)
    rw [s.judged_stages] at this
    exact ⟨this.1, fun p hp => this.2 p hp⟩

/-- The level after a settled outcome is the judged one's, and so are its conditions. -/
theorem State.afterOutcome_level {s : State} (hn : (s.activeEntries.map Entry.handle).Nodup) (f : Firing) (o : Verdict)
    (started : Bool) :
    (s.afterOutcome f o started).hm = (s.judged f o started).hm ∧
    (s.afterOutcome f o started).sc = s.sc ∧ (s.afterOutcome f o started).dev = s.dev ∧
    (s.afterOutcome f o started).ew = s.ew ∧
    (s.afterOutcome f o started).weakCount = (s.judged f o started).weakCount ∧
    (s.afterOutcome f o started).disabledCount = (s.judged f o started).disabledCount ∧
    (s.afterOutcome f o started).healthNow = (s.judged f o started).healthNow := by
  obtain ⟨⟨ps, os, h⟩, -⟩ := State.afterOutcome_spec hn f o started
  rw [h]
  obtain ⟨hw, hd, -⟩ := healthNow_settledTable (s.judged f o started) f
  cases started && f.kind.sends
  · exact ⟨rfl, rfl, rfl, rfl, rfl, rfl, rfl⟩
  · exact ⟨rfl, rfl, rfl, rfl, hw, hd, healthNow_after ..⟩

/-- What the Health Monitor posts of a settled outcome is what `settledHealth` says (R125, R129, R134). -/
theorem settledHealth_eq {s : State} (hn : (s.activeEntries.map Entry.handle).Nodup) (f : Firing) (o : Verdict)
    (started : Bool) :
    s.scoreEvents f o ++ readyRecords (s.hm.closed.map (namedBy f o started)) =
      settledHealth s (s.afterOutcome f o started) f o started := by
  obtain ⟨hm, hs, -, -, hw, hd, -⟩ := State.afterOutcome_level hn f o started
  unfold settledHealth
  dsimp only
  rw [reachedBy_eq hn]
  congr 1
  unfold State.scoreEvents
  cases h : s.reached f with
  | none =>
    have : (s.afterOutcome f o started).hm.degraded = s.hm.degraded := by
      rw [hm]
      simp [State.judged, h]
    simp [healthChange, this]
  | some a =>
    have : healthChange s (s.afterOutcome f o started) =
        healthChange s { s.scoredTable f o with hm := (s.scoredTable f o).healthNow } := by
      refine healthChange_congr s ?_ ⟨hw, hd⟩ hs
      rw [hm]
      simp [State.judged, h]
    rw [this]
    dsimp only
    congr 1
    by_cases hc : a.run.disabled = false ∧ (a.run.scored o).score = 15 <;>
      simp [failedEvents, hc, Firing.failedEvent]

/-- A settled outcome is settled as `Settled` says, for every table that holds each handle once (R3, R37). -/
theorem State.afterOutcome_Settled {s : State} (hn : (s.activeEntries.map Entry.handle).Nodup) (f : Firing) (o : Verdict)
    (started : Bool) : Settled s (s.afterOutcome f o started) f o started := by
  obtain ⟨⟨ps, os, hs⟩, hh⟩ := State.afterOutcome_spec hn f o started
  obtain ⟨hm, -, -, -, -, -, hl⟩ := State.afterOutcome_level hn f o started
  have hj : (s.judged f o started).hm =
      { (if s.reached f = none then s.hm else (s.scoredTable f o).healthNow) with
        openRecord := s.hm.openRecord.map (namedBy f o started),
        closed := (s.hm.closed.map (namedBy f o started)).filter fun m => decide (m.inFlight ≠ 0) } := rfl
  have hk : (if s.reached f = none then s.hm else (s.scoredTable f o).healthNow).expected = s.hm.expected ∧
      (if s.reached f = none then s.hm else (s.scoredTable f o).healthNow).matrixNumber = s.hm.matrixNumber ∧
      (if s.reached f = none then s.hm else (s.scoredTable f o).healthNow).nextId = s.hm.nextId := by
    split <;> exact ⟨rfl, rfl, rfl⟩
  refine ⟨?_, ?_, ?_, ?_, ?_, ?_, ?_, ?_, ?_⟩
  · rw [hs]
    by_cases ht : (started && f.kind.sends) = true
    · rw [if_pos ht]
      simp only [if_pos ((sends_iff started f.kind).mp ht)]
      simp only [State.settledTable, State.judged, State.scoredTable, State.onReached, List.map_map]
      refine List.map_congr_left fun a _ => ?_
      simp only [Function.comp]
      split <;> simp_all
    · rw [if_neg ht]
      simp only [if_neg (mt (sends_iff started f.kind).mpr ht)]
      rfl
  · rw [hm, hj]
  · rw [hm, hj]
  · rw [hm, hj]
    exact hk.1
  · rw [hm, hj]
    exact hk.2.1
  · rw [hm, hj]
    exact hk.2.2
  · intro hr
    rw [reachedBy_eq hn] at hr
    obtain ⟨a, ha⟩ : ∃ a, s.reached f = some a := by
      cases h : s.reached f with
      | none => simp [h] at hr
      | some a => exact ⟨a, rfl⟩
    rw [hl, hm, State.judged_level ha]
  · intro hr
    have hz : s.reached f = none := by
      rw [reachedBy_eq hn] at hr
      cases h : s.reached f with
      | none => rfl
      | some a => simp [h] at hr
    rw [hm, hj, if_pos hz]
  · have : (if started = true ∧ (f.kind = .send ∨ f.kind = .swap) then reachedBy s f else []) =
        if started && f.kind.sends then reachedBy s f else [] := by
      by_cases ht : (started && f.kind.sends) = true
      · rw [if_pos ht, if_pos ((sends_iff started f.kind).mp ht)]
      · rw [if_neg ht, if_neg (mt (sends_iff started f.kind).mpr ht)]
    rw [this]
    exact hh

/-! ### The step that settles an outcome -/

/-- `Settled` does not read what the end of a step changes. -/
theorem Settled.finish {s : State} {w : Work} {f : Firing} {o : Verdict} {started : Bool}
    (h : Settled s w.s f o started) : Settled s w.finish f o started := by
  obtain ⟨e, os, n, hw⟩ := w.finish_shape
  rw [hw]
  exact h

/-- A step that ends by settling an outcome settles it as `Settles` says, ENTRY_OUTCOME after what its other blocks have
posted: outside FATAL, for every table that holds each handle once (R3, R37). -/
theorem Work.settle_finish_Settles {w : Work} (hn : (w.s.activeEntries.map Entry.handle).Nodup) (hd : w.s.dev ≠ .fatal)
    (hh : w.health = []) (f : Firing) (o : Verdict) (slot : Nat) (started : Bool) :
    Settles w.s (w.settle f o slot started).finish f o slot started w.others := by
  obtain ⟨-, hs, hv, he, -⟩ := State.afterOutcome_level hn f o started
  have hw : w.settle f o slot started =
      { s := w.s.afterOutcome f o started, others := w.others ++ outcomeEvents f o slot,
        health := settledHealth w.s (w.s.afterOutcome f o started) f o started } := by
    rw [Work.settle_spec, settledHealth_eq hn, hh]
    rfl
  rw [hw]
  have hp := Work.finish_Posts w.s
    { s := w.s.afterOutcome f o started, others := w.others ++ outcomeEvents f o slot,
      health := settledHealth w.s (w.s.afterOutcome f o started) f o started } (by rw [hv]; exact hd) he (by rw [hs])
  refine ⟨Settled.finish (State.afterOutcome_Settled hn f o started), ?_⟩
  obtain ⟨e, os, n, hf⟩ := Work.finish_shape
    { s := w.s.afterOutcome f o started, others := w.others ++ outcomeEvents f o slot,
      health := settledHealth w.s (w.s.afterOutcome f o started) f o started }
  rw [hf] at hp ⊢
  exact hp

/-- `Settles` reads of the state before only the table, the Health Monitor, the pairs, the Event Writer and local time: what
a step has changed elsewhere before it settles is of no account. -/
theorem Settles.of_before {s u t : State} {f : Firing} {o : Verdict} {slot : Nat} {started : Bool} {first : List Event}
    (h : Settles u t f o slot started first) (ha : u.active = s.active) (hm : u.hm = s.hm) (hp : u.pairs = s.pairs)
    (he : u.ew = s.ew) (ht : u.sc.localTime = s.sc.localTime) : Settles s t f o slot started first := by
  obtain ⟨h, hpo⟩ := h
  refine ⟨?_, ?_⟩
  · unfold Settled reachedBy Hands at h ⊢
    rw [ha, hm, hp] at h
    exact h
  · unfold Posts settledHealth reachedBy healthChange at hpo ⊢
    rw [ha, hm, he, ht] at hpo
    exact hpo

end Sys2Proof.Machine
end

