-- ==== Sys2Proof/Laws/Steps.lean ====
section
/-! SUPPORT. What shared parts of a step do, in the terms of Safety: the record write that begins with the events of a step
(R158), an evaluation of the level (R129), an exchange in flight at a swap (R21). -/

namespace Sys2Proof.Machine

/-! ### The record write of a step (R158) -/

/-- The Event Writer is writing unless its queue is empty and no old write is left. -/
theorem EventWriter.writing_eq_false {w : EventWriter} : w.writing = false ↔ w.queue = [] ∧ w.stray = false := by
  simp [EventWriter.writing]

/-- The record write that begins in a step, by what the Event Writer holds before and after it. -/
theorem recordWrite_eq (s t : State) : recordWrite s t = if s.ew.writing then [] else t.ew.begun := by
  unfold recordWrite EventWriter.begun
  cases h : s.ew.writing
  · rw [if_pos (EventWriter.writing_eq_false.mp h)]
    rfl
  · rw [if_neg fun k => by rw [EventWriter.writing_eq_false.mpr k] at h; cases h]
    rfl

/-- Posting begins the record write of the step, and puts nothing else out. -/
theorem State.postAll_outputs (s : State) (es : List Event) (h : s.dev ≠ .fatal) :
    (s.postAll es).outputs = recordWrite s (s.postAll es) ++ s.outputs := by
  rw [recordWrite_eq]
  unfold State.postAll
  rw [if_neg h]

/-- The end of a step begins the record write of the step, and puts nothing else out. -/
theorem Work.finish_outputs (w : Work) (h : w.s.dev ≠ .fatal) :
    w.finish.outputs = recordWrite w.s w.finish ++ w.s.outputs := by
  unfold Work.finish
  split
  · exact w.s.postAll_outputs _ h
  · split
    · exact w.s.postAll_outputs _ h
    · exact State.postAll_outputs _ _ h

/-! ### The level (R129) -/

/-- What ends a step keeps the Health Monitor, and all that the level is read from. -/
theorem Work.finish_level (w : Work) : w.finish.hm = w.s.hm ∧ w.finish.healthNow = w.s.healthNow := by
  obtain ⟨e, os, n, h⟩ := w.finish_shape
  rw [h]
  exact ⟨rfl, rfl⟩

/-- A step that ends with an evaluation, and has changed nothing else of the Health Monitor, evaluates the level. -/
theorem Work.evaluate_Evaluated (s : State) (w : Work) (h : w.s.hm = s.hm) : Evaluated s w.evaluate.finish := by
  obtain ⟨hm, hl⟩ := w.evaluate.finish_level
  unfold Evaluated
  rw [hm, hl, Work.evaluate_spec]
  refine ⟨rfl, ?_⟩
  rw [← h]
  exact ⟨rfl, rfl, rfl, rfl, rfl⟩

/-- A change of lane state evaluates the level (R58, R129). -/
theorem Work.laneChange_Evaluated (s : State) (w : Work) (l : LaneId) (x : Lane) (c : LaneCause) (h : w.s.hm = s.hm) :
    Evaluated s (w.laneChange l x c).finish := Work.evaluate_Evaluated s _ h

/-! ### An exchange in flight at a swap (R20, R21) -/

/-- A swap does to an exchange in flight what `afterSwap` says. -/
theorem Exchange.detach_eq_afterSwap (s : State) (x : Exchange) : x.detach s.edit s.active = afterSwap s x := by
  obtain ⟨source, _⟩ := x
  cases source <;> rfl

/-! ### Watch expiry (R114) -/

/-- The hold's end, with what a waiting RESIGN completes (R111). -/
theorem State.endResign_spec (s : State) (status : Status) (result : Reg) :
    (∃ ps os, s.endResign status result =
      { s with sc := { s.sc with hold := false, resign := none }, pairs := ps, outputs := os }) ∧
    Hands s (s.endResign status result) (s.sc.resign.toList.map fun ref => ⟨ref, status, result⟩) := by
  unfold State.endResign
  cases h : s.sc.resign with
  | none => exact ⟨⟨s.pairs, s.outputs, rfl⟩, .refl rfl⟩
  | some ref =>
    obtain ⟨ps, os, hc⟩ :=
      State.complete_shape { s with sc := { s.sc with hold := false, resign := none } } ref status result
    exact ⟨⟨ps, os, hc⟩, fun p hp =>
      State.complete_Hands { s with sc := { s.sc with hold := false, resign := none } } ref status result p hp⟩

/-- A LEADER that steps down: role and trim state, and nothing else but the good-run count (R104, R121). -/
theorem Work.demote_spec (w : Work) (cause : RoleCause) :
    ∃ n, (w.demote cause).s = { w.s with sc := { w.s.sc with
      role := if w.s.sc.role = .leader then .backup else w.s.sc.role, trimState := trimAfterLeading w.s, goodRun := n } } := by
  unfold Work.demote trimAfterLeading
  by_cases hr : w.s.sc.role = .leader
  · rw [if_neg (not_not.mpr hr)]
    by_cases ht : w.s.sc.trimState = .frozen
    · simp [Work.setRole, Work.setTrimState, Work.on, Work.post, hr, ht]
    · simp [Work.setRole, Work.on, Work.post, hr, ht]
  · rw [if_pos hr]
    exact ⟨w.s.sc.goodRun, by simp [hr]⟩

/-- The state of an expiry before its level is evaluated, and what it hands (R111, R114). -/
theorem Work.expire_spec (w : Work) (hu : w.s.sc.sync ≠ .unsynced) :
    ∃ (x : Work) (ps : Vector Pair 4) (os : List Output) (n : Nat), w.expire = x.evaluate ∧
      x.s = { w.s with
        sc := { w.s.sc with
          sync := .unsynced, role := if w.s.sc.role = .leader then .backup else w.s.sc.role,
          trimState := trimAfterLeading w.s, goodRun := n, hold := false,
          resign := if w.s.sc.hold then none else w.s.sc.resign, cycleTime := 0, activity := false, firstFreeRun := true,
          rejectedInRun := 0, opening := none },
        cycle := none, hm := w.s.hm.flagPartial, pairs := ps, outputs := os } ∧
      Hands w.s x.s (if w.s.sc.hold then w.s.sc.resign.toList.map fun ref => ⟨ref, .noTakeover, 0⟩ else []) := by
  have hsync : (w.setSync .unsynced .watch).s = { w.s with sc := { w.s.sc with sync := .unsynced } } := by
    unfold Work.setSync
    rw [if_neg (Ne.symm hu)]
    rfl
  obtain ⟨n, hd⟩ := (w.setSync .unsynced .watch).demote_spec .watch
  rw [hsync] at hd
  have ht : trimAfterLeading { w.s with sc := { w.s.sc with sync := .unsynced } } = trimAfterLeading w.s := rfl
  rw [ht] at hd
  unfold Work.expire
  cases hh : w.s.sc.hold with
  | false =>
    refine ⟨_, w.s.pairs, w.s.outputs, n, rfl, ?_, ?_⟩
    · simp [Work.on, hd, hh]
    · exact .refl (by simp [Work.on, hd, hh])
  | true =>
    obtain ⟨⟨ps, os, he⟩, hc⟩ := ((w.setSync .unsynced .watch).demote .watch).s.endResign_spec .noTakeover 0
    refine ⟨_, ps, os, n, rfl, ?_, ?_⟩
    · simp [Work.on, hd, hh] at he ⊢
      simp [he]
    · intro p hp
      have := hc p
      simp [Work.on, hd, hh] at this ⊢
      exact this hp

/-- Watch expiry does to the state what `WatchExpires` says (R111, R114). -/
theorem Work.expire_WatchExpires (w : Work) (hu : w.s.sc.sync ≠ .unsynced) (hr : w.s.sc.receiving = none) :
    WatchExpires w.s w.expire.finish := by
  obtain ⟨x, ps, os, n, he, hx, hh⟩ := w.expire_spec hu
  obtain ⟨e, os', k, hf⟩ := x.evaluate.finish_shape
  rw [he, hf, Work.evaluate_spec]
  unfold WatchExpires
  rw [hx] at hh ⊢
  exact ⟨rfl, rfl, rfl, rfl, rfl, hr, rfl, rfl, rfl, rfl, rfl, rfl, rfl, hh, rfl, rfl, rfl, rfl, rfl, rfl, rfl, rfl, rfl, rfl,
    rfl, rfl, rfl⟩

end Sys2Proof.Machine
end

