-- ==== Sys2Proof/Tests/Slice0.lean ====
section
/-! SUPPORT. Tests: what `wellFormed` refuses, values worked out by hand from the manual's tables and examples, and for
each statement of Certificates/Slice0/Obligations.lean with hypotheses a witness: a concrete state and operands that meet
the hypotheses of each of its clauses. -/

namespace Sys2Proof.Tests

open Sys2Proof.Machine

-- Each test waits for the kernel to have checked what precedes it: one after another, not one thread each.
set_option Elab.async false

/-! ### Small states -/

/-- A command record from its first bytes; the others are zero. -/
def cmd (bytes : List Nat) : CommandRecord := BitVec.ofNat 512 (bytes.foldr (fun b n => b + 256 * n) 0)

/-- A record of a pair, as the holding place holds it. -/
def from_ (p : PairId) (bytes : List Nat) : Held := { record := cmd bytes, pair := p, sqHead := 1 }

/-- An ACTIVE pair of depth 8. -/
def livePair : Pair := { Pair.reset with state := .active, sqBase := 4096, cqBase := 8192, depth := 8 }

/-- A unit in CONFIG with its four pairs ACTIVE. -/
def unit : State := { State.reset with dev := .config, enable := true, pairs := Vector.replicate 4 livePair }

/-- A state with a held record. -/
def holds (h : Held) (s : State) : State := { s with holding := some h }

/-- The plan of unit B of section 6.8. -/
def plan : Plan :=
  { stu := 100, bm := 1000, matrix := 4, stagger := 10, watchMargin := 200, candidate := true, rank := 2, unit := 9,
    trimLimit := 200, reports := true }

/-- A SEND entry, handle 7. -/
def send : Entry :=
  { handle := 7, kind := .send, lane := 0, period := 1, phase := 0, outCount := 2, inCount := 0, mode := .oneShot,
    ring := 0, notify := .all, mark := 100, window := 20 }

/-- A FETCH entry, handle 60, on ring 5 (section 5.9). -/
def fetch : Entry :=
  { handle := 60, kind := .fetch, lane := 0, period := 1, phase := 0, outCount := 0, inCount := 4, mode := .none,
    ring := 5, notify := .failures, mark := 100, window := 20 }

/-- A PROBE entry, handle 8. -/
def probe : Entry :=
  { handle := 8, kind := .probe, lane := 0, period := 1, phase := 0, outCount := 0, inCount := 0, mode := .none,
    ring := 0, notify := .none, mark := 100, window := 20 }

/-- A MARKER entry, handle 9. -/
def marker : Entry :=
  { handle := 9, kind := .marker, lane := 0, period := 1, phase := 0, outCount := 0, inCount := 0, mode := .none,
    ring := 0, notify := .none, mark := 100, window := 0 }

/-- An entry with a fresh runtime record. -/
def fresh (e : Entry) : ActiveEntry := { entry := e, run := Runtime.fresh }

/-- A command that waits. -/
def ref (p : PairId) : CmdRef := { pair := p, tag := 5, sqHead := 2 }

/-- The unit RUNNING and LOCKED in cycle 1 at cycle time 100, with a table. -/
def locked (table : List ActiveEntry) : State :=
  { unit with
    dev := .running,
    sc := { TimeSync.reset with
      plan := some plan, sync := .locked, role := .backup, cycleTime := 100, cycleCount := 1, localTime := 5000,
      stuLength := 100, stuLeft := 60 },
    cycle := some { count := 1, tag := none, position := 0 }, active := table }

/-- A READY lane. -/
def ready : Lane := { Lane.reset with state := .ready }

/-- A lane with an exchange of sequence number 3 in flight, its reply arriving. -/
def awaiting (state : LaneState) (source : ExchangeSource) (inCount : Nat) : Lane :=
  { Lane.reset with
    state := state, receiver := .reply,
    inFlight := some { source := source, sequence := 3, inCount := inCount, deadline := .inClocks 0, settling := false } }

/-- A firing of an entry. -/
def firing (e : Entry) : Firing := (locked []).firingOf { count := 1, tag := none, position := 0 } e

/-- An ACTIVE ring of four slots (section 5.9). -/
def ring4 : InRing := { InRing.reset with state := .active, slotCount := 4 }

/-- An event ring of depth 16 (section 9.8). -/
def events16 : EventWriter := { EventWriter.reset with state := .active, depth := 16 }

/-- An event. -/
def someEvent : Event := { kind := .mark, subject := 9, cycle := 1, time := 5000, detail := 100 }

/-- An event ring with one record of one being written. -/
def eventsBusy : EventWriter :=
  { events16 with tail := 1, queue := [{ position := 0, phase := true, event := someEvent }] }

/-! ### What is not well formed -/

theorem test_access_of_no_byte_is_refused : (Instr.registerWrite 4 0 0).wellFormed = false := by decide

theorem test_access_of_five_bytes_is_refused : (Instr.registerWrite 4 5 0).wellFormed = false := by decide

theorem test_frame_of_62_bits_is_refused : (Instr.beaconReceived (List.replicate 62 true)).wellFormed = false := by decide

theorem test_arbitration_lost_at_16_is_refused : (Instr.arbitrationLoss 16).wellFormed = false := by decide

theorem test_clash_at_15_is_refused : (Instr.beaconClash 15).wellFormed = false := by decide

theorem test_clash_at_61_is_refused : (Instr.beaconClash 61).wellFormed = false := by decide

theorem test_boundary_operands_are_well_formed :
    (Instr.registerWrite 4 4 0).wellFormed = true ∧ (Instr.beaconReceived (List.replicate 61 true)).wellFormed = true ∧
    (Instr.arbitrationLoss 15).wellFormed = true ∧ (Instr.beaconClash 16).wellFormed = true ∧
    (Instr.beaconClash 60).wellFormed = true := by decide

/-- No row of the table gives bits. -/
theorem test_no_word_spells_a_command : decodeTableWord 8 1 = none := rfl

/-! ### Values worked out by hand -/

/-- R15, the rows SEND out 2 and SWAP 8 and 8 of its table. -/
theorem test_minimum_windows :
    [minimumWindow 2 0 .mbit12 100, minimumWindow 2 0 .mbit25 100, minimumWindow 2 0 .mbit50 100] = [14, 8, 5] ∧
    [minimumWindow 8 8 .mbit12 100, minimumWindow 8 8 .mbit25 100, minimumWindow 8 8 .mbit50 100] = [32, 17, 10] := by
  decide

/-- R176: the check of the nine characters 1 to 9, whose value is well known for this polynomial and start. -/
theorem test_check_of_nine_digits :
    checkOf ([0x31, 0x32, 0x33, 0x34, 0x35, 0x36, 0x37, 0x38, 0x39].flatMap (msbBits 8)) = 0x29B1#16 := by
  decide +kernel

/-- R118: a half is rounded away from zero: 1/16 STU in 1000 is 62.5 ppm. -/
theorem test_deviation_rounds_away : deviation 16001 1000 = 63 ∧ deviation 15999 1000 = -63 ∧ deviation 16000 1000 = 0 := by
  decide

/-- Section 6.8: WM is 1200 and unit B's offset BM + 30. -/
theorem test_plan_of_unit_b : plan.wm = 1200 ∧ plan.offset = 1030 ∧ plan.fits = true := by decide

/-- Section 8.10: with depth 8 a fetch needs outstanding + unconsumed at 6 or less. -/
theorem test_credit_of_depth_8 :
    { livePair with sqTail := 1, outstanding := 6 }.eligible = true ∧
    { livePair with sqTail := 1, outstanding := 7 }.eligible = false ∧
    { livePair with sqTail := 1, outstanding := 4, cqTail := 3 }.eligible = false := by decide

/-- Section 9.8: a ring of depth 16 takes 14 records; the next sets the overflow. -/
theorem test_event_ring_of_depth_16 :
    ({ events16 with tail := 13 }.offer 0 someEvent).tail = 14 ∧
    ({ events16 with tail := 14 }.offer 0 someEvent).tail = 14 ∧
    ({ events16 with tail := 14 }.offer 0 someEvent).overflow = some { count := 1, time := 0, kind := .mark } := by decide

/-- Section 5.9: four slots, four reservations; the lap turns when position 3 has been written. -/
theorem test_ring_of_four_slots :
    { ring4 with reserved := 3 }.reserve.toOption = some { ring4 with reserved := 4 } ∧
    { ring4 with reserved := 2, written := 2 }.reserve.toOption = none ∧
    { ring4 with written := 2, reserved := 1 }.wrote.lap = true ∧
    { ring4 with written := 3, reserved := 1 }.wrote.lap = false := by decide

/-- R163, R164: the registers after a device reset; a read of part of a word, or beside a register, returns 0. -/
theorem test_registers_at_reset : State.reset.readRegister 0x00 4 = 0x0E580001 ∧ State.reset.readRegister 0x08 4 = 0 ∧
    State.reset.readRegister 0x00 2 = 0 ∧ State.reset.readRegister 0x02 4 = 0 ∧ State.reset.readRegister 0x3C 4 = 0 ∧
    { unit with adminDepth := 5 }.readRegister 0x14 4 = 5 ∧ (unit.setPair 3 { livePair with cqHead := 6 }).readRegister 0x34 4 = 6 ∧
    { unit with ew := { EventWriter.reset with head := 9 } }.readRegister 0x38 4 = 9 := by decide +kernel

/-- R10: the key of an entry moves a MARKER behind every lane at its mark (R3). -/
theorem test_marker_sorts_last : send.before marker = true ∧ marker.before send = false := by decide

/-- R166: ENABLE with valid admin registers, then R168. -/
theorem test_enable_and_clear :
    { State.reset with adminDepth := 2 }.enableSet.pairs[0].depth = 4 ∧
    { State.reset with adminDepth := 2 }.enableSet.dev = .config ∧ State.reset.enableSet.dev = .fatal ∧
    State.reset.enableSet.enableClear = State.reset := by decide +kernel

/-! ### Witnesses: the machine as a whole -/

theorem witness_IdleStepLetsAClockPass :
    (locked [fresh marker]).eventDue = true ∧ (locked []).eventDue = false ∧ (locked []).serving = true ∧
    (locked []).pending = [] ∧ (locked []).timeRuns = true ∧ (locked []).sc.plan ≠ none ∧ 2 ≤ (locked []).sc.stuLeft ∧
    { locked [] with sc := { (locked []).sc with stuLeft := 2 } }.eventDue = false ∧
    { locked [] with sc := { (locked []).sc with stuLeft := 1 } }.eventDue = false ∧
    { locked [] with sc := { (locked []).sc with stuLeft := 1, cycleTime := 999,
                                                 receiving := some { time := 0, clocks := 0, length := 100 } } }.eventDue =
      false ∧ effectiveMicro 50 (-2000) = 49900000 ∧ effectiveMicro 50 (-1000000) = 0 ∧
    unit.eventDue = false ∧ unit.serving = true ∧ unit.timeRuns = false ∧ TimeSync.reset.stuCarry < 1000000 := by
  decide +kernel

theorem witness_ResetsReturnEveryBlock : unit.enable = true ∧ State.reset.enable = false := by decide

theorem witness_CompletionIsHandedOnceOrRetired :
    unit.pairs[(3 : PairId)].serves = true ∧ State.reset.pairs[(3 : PairId)].serves = false := by decide

/-- A matrix record with exchanges in flight. -/
def record (inFlight : Nat) : MatrixRecord :=
  { id := 0, number := 3, expected := 4, done := 2, failed := 0, skipped := 0, isPartial := false, lastCycle := 1,
    inFlight := inFlight }

/-- A state with a closed matrix record that has one exchange in flight, and an open one. -/
def reporting (s : State) : State :=
  { s with hm := { s.hm with closed := [record 1], openRecord := some { record 0 with id := 1 }, nextId := 2 } }

theorem witness_EveryStepKeepsTablesAndScores :
    (reporting (locked [fresh send])).tablesLaw ∧ (reporting (locked [fresh send])).scoresLaw ∧
    (reporting (locked [fresh send])).recordsLaw ∧
    step (reporting (locked [fresh send])) = .next (reporting (locked [fresh send])).tick := by
  refine ⟨?_, ?_, by unfold State.recordsLaw; decide +kernel, rfl⟩
  · unfold State.tablesLaw tableLaw
    decide +kernel
  · unfold State.scoresLaw Runtime.scoreLaw
    decide +kernel

theorem witness_EveryStepKeepsStatesAndRoles :
    (locked []).cycleLaw ∧ (locked []).roleLaw ∧ step (locked []) = .next (locked []).tick := by
  refine ⟨?_, ⟨.inr ⟨plan, rfl, rfl⟩, ?_⟩, rfl⟩
  · unfold State.cycleLaw
    decide +kernel
  · intro b h
    have h' : (none : Option OwnBeacon) = some b := h
    exact absurd h' (by simp)

theorem witness_EveryStepKeepsTheEventRing :
    { unit with ew := eventsBusy }.ew.ringLaw ∧ { unit with ew := eventsBusy }.ew.state = .active ∧
    step { unit with ew := eventsBusy } = .next { unit with ew := eventsBusy }.tick := by
  refine ⟨?_, rfl, rfl⟩
  unfold EventWriter.ringLaw
  decide +kernel

/-! ### Witnesses: the schedule table -/

/-- A session of pair 1 over a table, with a commit pending or none. -/
def editing (commit : Option CmdRef) (edit : List Entry) (s : State) : State :=
  { s with edit := edit, session := some { owner := 1, commit := commit } }

/-- The bytes of ENTRY INSERT (or MODIFY, by `op`) of a SEND entry with a handle and a mark. -/
def sendBytes (op handle mark : Nat) : List Nat := [op, 0, 0, 0, 0, 0, 0, 0, handle, 1, 0, 1, 0, 2, 0, 1, 0, 2, mark, 0, 20]

theorem witness_EditBeginOpensTheSession :
    (holds (from_ 1 [1, 9]) unit).heldCommand 0x01 = some (from_ 1 [1, 9]) ∧
    reservedZero (from_ 1 [1, 9]).record [] = false ∧
    (holds (from_ 1 [1]) unit).heldCommand 0x01 = some (from_ 1 [1]) ∧ reservedZero (from_ 1 [1]).record [] = true ∧
    unit.session = none ∧ (editing none [] unit).session ≠ none := by decide +kernel

theorem witness_EditingNeedsTheOwnersSession :
    (holds (from_ 1 (sendBytes 2 7 100)) unit).heldCommand 0x02 = some (from_ 1 (sendBytes 2 7 100)) ∧
    (holds (from_ 1 (sendBytes 4 7 100)) unit).heldCommand 0x04 = some (from_ 1 (sendBytes 4 7 100)) ∧
    (holds (from_ 1 [3]) unit).heldCommand 0x03 = some (from_ 1 [3]) ∧
    reservedZero (from_ 1 [3]).record [(8, 8)] = true ∧ unit.session = none ∧
    (editing none [] unit).session = some { owner := 1, commit := none } ∧ (1 : PairId) ≠ 2 ∧
    (editing (some (ref 1)) [] unit).session = some { owner := 1, commit := some (ref 1) } := by decide +kernel

theorem witness_AcceptedEntryFitsItsKind :
    recordEntry (cmd (sendBytes 2 7 100)) = some send ∧ recordEntry (cmd (sendBytes 2 7 15)) = none ∧
    recordEntry (cmd (sendBytes 2 255 16)) = some { send with handle := 255, mark := 16 } := by decide +kernel

/-- A table of 256 entries, marks 16 to 271. -/
def full : List Entry := (List.range 256).map fun i => { send with handle := i, mark := 16 + i }

theorem witness_EntryInsertPlacesTheEntry :
    let h := from_ 1 (sendBytes 2 7 100)
    (holds h (editing none [marker] unit)).heldCommand 0x02 = some h ∧ recordEntry h.record = some send ∧
    recordEntry (from_ 1 [2, 0, 0, 0, 0, 0, 0, 0, 7]).record = none ∧
    full.length = 256 ∧ [marker].length < 256 ∧ send ∈ [send] ∧ { send with handle := 8 }.key = send.key ∧
    { send with handle := 8 }.handle ≠ send.handle ∧ marker.handle ≠ send.handle ∧ marker.key ≠ send.key := by
  decide +kernel

theorem witness_EntryInsertPlacesTheEntry_tables :
    tableLaw [marker] ∧ tableLaw [send] ∧ tableLaw [{ send with handle := 8 }] := by
  unfold tableLaw
  decide +kernel

theorem witness_EntryRemoveTakesTheEntryOut :
    let h := from_ 1 [3, 0, 0, 0, 0, 0, 0, 0, 7]
    (holds h (editing none [send] unit)).heldCommand 0x03 = some h ∧ reservedZero h.record [(8, 8)] = true ∧
    (holds (from_ 1 [3, 1]) unit).heldCommand 0x03 = some (from_ 1 [3, 1]) ∧
    reservedZero (from_ 1 [3, 1]).record [(8, 8)] = false ∧
    (editing none [send] unit).session = some { owner := h.pair, commit := none } ∧
    recordByte h.record 8 = send.handle ∧ recordByte h.record 8 ≠ marker.handle := by decide +kernel

theorem witness_EntryModifyReplacesTheEntry :
    let h := from_ 1 (sendBytes 4 7 100)
    (holds h (editing none [send] unit)).heldCommand 0x04 = some h ∧ recordByte h.record 8 = send.handle ∧
    recordEntry h.record = some send ∧ recordEntry (from_ 1 [4, 0, 0, 0, 0, 0, 0, 0, 7]).record = none ∧
    recordByte h.record 8 ≠ marker.handle ∧ { send with handle := 8 }.handle ≠ send.handle ∧
    { send with handle := 8 }.key = send.key := by decide +kernel

theorem witness_EntryModifyReplacesTheEntry_tables :
    tableLaw [send] ∧ tableLaw [marker] ∧ tableLaw [{ send with mark := 90 }, { send with handle := 8 }] := by
  unfold tableLaw
  decide +kernel

theorem witness_EditDiscardClosesTheSession :
    let h := from_ 1 [7]
    (holds h unit).heldCommand 0x07 = some h ∧ reservedZero h.record [] = true ∧ unit.session = none ∧
    (holds (from_ 1 [7, 1]) unit).heldCommand 0x07 = some (from_ 1 [7, 1]) ∧
    reservedZero (from_ 1 [7, 1]).record [] = false ∧
    (editing none [] unit).session = some { owner := 1, commit := none } ∧ h.pair = 1 ∧ (from_ 2 [7]).pair ≠ 1 ∧
    (editing (some (ref 1)) [] unit).session = some { owner := 1, commit := some (ref 1) } := by decide +kernel

/-- The unit in CONFIG with a plan. -/
def planned : State := { unit with sc := { TimeSync.reset with plan := some plan, role := .backup } }

theorem witness_ValidTablesKeepEveryCheck :
    unit.sc.plan = none ∧ planned.sc.plan = some plan ∧ planned.validate [send, marker] = none ∧
    planned.entryFault plan { send with mark := 980 } = none ∧
    planned.entryFault plan { send with mark := 981 } = some .markRange ∧
    planned.entryFault plan { marker with mark := 999 } = none ∧
    planned.entryFault plan { marker with mark := 1000 } = some .markRange ∧
    planned.entryFault plan { send with period := 8 } = some .periodRange ∧
    planned.entryFault plan fetch = some .ringAbsent ∧ (planned.setRing 5 ring4).entryFault plan fetch = none ∧
    (planned.setRing 5 { ring4 with closing := some (ref 0) }).entryFault plan fetch = some .ringAbsent ∧
    planned.entryFault plan { send with window := 7 } = some .windowShort ∧
    planned.entryFault plan { send with window := 8 } = none := by decide +kernel

/-- Two SENDs on one lane: the second may begin 1 STU after the first one's deadline, not before. -/
theorem witness_ValidTablesKeepEveryCheck_pairs :
    planned.validate [send, { send with handle := 8, mark := 121 }] = none ∧
    (∀ x ∈ [send, { send with handle := 8, mark := 120 }], planned.entryFault plan x = none) ∧
    send.lane = { send with handle := 8, mark := 120 }.lane ∧ (120 : Nat) < send.mark + send.window + 1 ∧
    planned.validate [send, { send with handle := 8, mark := 120 }] = some ⟨.laneOverlap, 7, 8⟩ := by decide +kernel

theorem witness_EditCommitWaitsOrSwaps :
    let h := from_ 1 [6]
    let s := editing none [send] (locked [fresh marker])
    (holds h s).heldCommand 0x06 = some h ∧ reservedZero h.record [] = true ∧ unit.session = none ∧
    (holds (from_ 1 [6, 1]) s).heldCommand 0x06 = some (from_ 1 [6, 1]) ∧
    reservedZero (from_ 1 [6, 1]).record [] = false ∧ (from_ 2 [6]).pair ≠ 1 ∧
    (holds (from_ 2 [6]) s).heldCommand 0x06 = some (from_ 2 [6]) ∧
    (editing (some (ref 1)) [send] s).session = some { owner := h.pair, commit := some (ref 1) } ∧
    s.session = some { owner := h.pair, commit := none } ∧ s.validate s.edit = none ∧ s.dev = .running ∧
    s.sc.sync = .locked ∧ (editing none [send] unit).validate [send] ≠ none ∧
    (editing none [send] planned).validate [send] = none ∧ planned.sc.plan = some plan ∧ planned.dev ≠ .running := by
  decide +kernel

/-! ### Witnesses: the Cycle Dispatcher -/

/-- The table with its first lane READY and ring 5 ACTIVE. -/
def walking (table : List ActiveEntry) : State :=
  (((locked table).setLane 0 ready).setRing 5 ring4)

theorem witness_MarksFallInTableOrder :
    (walking []).markDue = none ∧
    (walking [fresh marker]).markDue = some ({ count := 1, tag := none, position := 0 }, fresh marker) ∧
    (walking [fresh { marker with mark := 101 }]).markDue = none ∧ marker.kind = .marker ∧
    (walking [fresh marker]).dev = .running ∧ (walking [fresh marker]).sc.sync = .locked ∧
    (walking [fresh marker]).cycle = some { count := 1, tag := none, position := 0 } ∧ 1 % marker.period = marker.phase ∧
    marker.mark ≤ (walking [fresh marker]).sc.cycleTime := by decide +kernel

/-- A record with a set waiting. -/
def staged (e : Entry) : ActiveEntry := { entry := e, run := { Runtime.fresh with waiting := some [1, 2] } }

/-- A disabled record. -/
def disabled (e : Entry) : ActiveEntry := { entry := e, run := { Runtime.fresh with score := 15, disabled := true } }

theorem witness_FirstFailingCheckGivesTheOutcome :
    ((walking [disabled send]).markDue.map Prod.snd = some (disabled send)) ∧
    ((locked [fresh send]).markDue.map Prod.snd = some (fresh send) ∧ ((locked [fresh send]).lanes[(0 : LaneId)]).state ≠ .ready) ∧
    (((walking [fresh send]).setLane 0 (awaiting .ready (.probe true) 0)).lanes[(0 : LaneId)].inFlight ≠ none) ∧
    ((walking [fresh fetch]).markDue.map Prod.snd = some (fresh fetch)) ∧
    (({ ring4 with reserved := 4 } : InRing).reserve.toOption = none) ∧
    ({ ring4 with state := .error }.reserve.toOption = none) ∧
    ((walking [fresh send]).markDue.map Prod.snd = some (fresh send) ∧ (fresh send).run.take .oneShot = none) := by
  decide +kernel

theorem witness_FirstFailingCheckGivesTheOutcome_tables : tableLaw [send] ∧ tableLaw [fetch] := by
  unfold tableLaw
  decide +kernel

theorem witness_PassingEntryStartsItsExchange :
    ((walking [staged send]).markDue.map Prod.snd = some (staged send) ∧
      (staged send).run.take .oneShot = some ([1, 2], { Runtime.fresh with current := some [1, 2] })) ∧
    ((walking [fresh fetch]).markDue.map Prod.snd = some (fresh fetch) ∧
      ((walking [fresh fetch]).rings[(5 : RingId)]).reserve.toOption = some { ring4 with reserved := 1 }) ∧
    ((walking [fresh probe]).markDue.map Prod.snd = some (fresh probe)) ∧
    ((walking [fresh probe]).lanes[(0 : LaneId)]).state = .ready ∧
    ((walking [fresh probe]).lanes[(0 : LaneId)]).inFlight = none := by decide +kernel

/-- R34: the firing record of a SEND holds the set it has taken, and its exchange keeps the record. -/
theorem test_firing_record_holds_the_out_words :
    ((walking [staged send]).markReached.lanes[(0 : LaneId)]).inFlight.map Exchange.source =
      some (.scheduled { handle := send.handle, kind := .send, lane := 0, outWords := [1, 2], inCount := 0,
                         ring := send.ring, notify := send.notify, cycle := 1, tag := none, start := 5000,
                         attached := true }) := by decide +kernel

/-! ### Witnesses: outbound values -/

/-- The bytes of STAGE VALUES for handle 7 with two words. -/
def stageBytes (confirm : Nat) : List Nat :=
  [0x10, 0, 0, 0, 0, 0, 0, 0, 7, 2, confirm] ++ List.replicate 21 0 ++ [1, 0, 2, 0]

/-- A SEND entry with a deferred STAGE of pair 2. -/
def deferred (onWire : Bool) : ActiveEntry :=
  { entry := send,
    run := { Runtime.fresh with current := some [1, 2], stage := some { ref := ref 2, onWire := onWire } } }

theorem witness_StageValuesFillsThePendingSlot :
    let h := from_ 1 (stageBytes 0)
    let c := from_ 1 (stageBytes 1)
    (holds h (locked [fresh send])).heldCommand 0x10 = some h ∧ (holds c (locked [fresh send])).heldCommand 0x10 = some c ∧
    reservedZero h.record ([(8, 10)] ++ wordBytes 2) = true ∧ reservedZero c.record ([(8, 10)] ++ wordBytes 2) = true ∧
    recordByte h.record 9 = send.outCount ∧ recordByte h.record 10 = 0 ∧ recordByte c.record 10 = 1 ∧
    (locked [fresh send]).findActive 7 = some (fresh send) ∧ (locked []).findActive 7 = none ∧
    (fresh send).run.stage = none ∧ (deferred true).run.stage = some ⟨ref 2, true⟩ ∧
    (deferred false).run.stage = some ⟨ref 2, false⟩ ∧ fetch.kind ≠ .send ∧ fetch.kind ≠ .swap ∧
    recordByte (from_ 1 (stageBytes 2)).record 10 = 2 ∧ 2 ≠ { send with outCount := 3 }.outCount ∧
    recordByte (from_ 1 [0x10, 0, 0, 0, 0, 0, 0, 0, 7, 17]).record 9 = 17 := by decide +kernel

theorem witness_ClearValuesEmptiesBothSlots :
    let h := from_ 1 [0x11, 0, 0, 0, 0, 0, 0, 0, 7]
    (holds h (locked [deferred true])).heldCommand 0x11 = some h ∧ reservedZero h.record [(8, 8)] = true ∧
    reservedZero (from_ 1 [0x11, 1]).record [(8, 8)] = false ∧ (locked []).findActive 7 = none ∧
    (locked [deferred true]).findActive 7 = some (deferred true) ∧ (locked [fresh send]).findActive 7 = some (fresh send) ∧
    (locked [fresh { probe with handle := 7 }]).findActive 7 = some (fresh { probe with handle := 7 }) := by decide +kernel

theorem witness_TakenSetsAndTheirOutcome :
    (staged send).run.waiting = some [1, 2] ∧ (deferred true).run.waiting = none ∧
    (deferred true).run.current = some [1, 2] ∧ (firing send).attached = true ∧
    (locked [deferred true]).findActive (firing send).handle = some (deferred true) ∧
    (locked [deferred false]).findActive (firing send).handle = some (deferred false) ∧
    (locked [fresh send]).findActive (firing send).handle = some (fresh send) ∧
    { firing send with attached := false }.attached = false := by decide +kernel

/-! ### Witnesses: station links -/

/-- The bytes of LANE CONFIGURE of lane 7: enable, rate, auto-retrain, delay, stale notify. -/
def laneBytes (enable rate : Nat) : List Nat := [0x20, 0, 0, 0, 0, 0, 0, 0, 7, enable, rate, 1, 1, 1]

theorem witness_LaneConfigureSetsTheLane :
    let h := from_ 0 (laneBytes 1 2)
    (holds h unit).heldCommand 0x20 = some h ∧ h.pair = 0 ∧ recordByte h.record 8 = 7 ∧ recordByte h.record 9 = 1 ∧
    rateOfCode (recordByte h.record 10) = some .mbit25 ∧ recordByte h.record 11 = 1 ∧ recordByte h.record 12 = 1 ∧
    recordByte h.record 13 = 1 ∧ reservedZero h.record [(8, 13)] = true ∧
    recordByte (from_ 0 (laneBytes 0 2)).record 9 = 0 ∧
    (holds (from_ 0 (laneBytes 0 2)) unit).heldCommand 0x20 = some (from_ 0 (laneBytes 0 2)) ∧
    (holds (from_ 0 [0x20, 0, 0, 0, 0, 0, 0, 0, 8]) unit).heldCommand 0x20 = some (from_ 0 [0x20, 0, 0, 0, 0, 0, 0, 0, 8]) ∧
    recordByte (from_ 0 (laneBytes 2 1)).record 9 = 2 ∧ recordByte (from_ 0 (laneBytes 1 4)).record 10 = 4 ∧
    ((unit.setLane 7 (awaiting .ready (.probe true) 0)).lanes[(7 : LaneId)]).inFlight = some
      { source := .probe true, sequence := 3, inCount := 0, deadline := .inClocks 0, settling := false } ∧
    rateOfCode (recordByte (from_ 0 (laneBytes 1 3)).record 10) = some .mbit50 ∧
    (unit.lanes[(7 : LaneId)]).rate = .mbit25 ∧ (unit.lanes[(7 : LaneId)]).state = .off ∧ unit.active = [] ∧
    unit.pendingCommit = none ∧ ((unit.setLane 7 ready).lanes[(7 : LaneId)]).state ≠ .off ∧
    (∃ a ∈ (locked [fresh { send with lane := 7 }]).active, a.entry.kind ≠ .marker ∧ a.entry.lane = 7) ∧
    (editing (some (ref 1)) [{ send with lane := 7 }] (locked [])).pendingCommit ≠ none ∧
    (∃ e ∈ (editing (some (ref 1)) [{ send with lane := 7 }] (locked [])).edit, e.kind ≠ .marker ∧ e.lane = 7) := by
  decide +kernel

/-- A waiting host exchange of pair 1. -/
def asking (window : Nat) : WaitingExchange :=
  { exchange := { ref := ref 1, kind := .probe, outWords := [], inCount := 0, window := window, address := 0 }, giveUps := 0 }

/-- The exchange in flight of `awaiting`. -/
def exchange (source : ExchangeSource) (inCount : Nat) : Exchange :=
  { source := source, sequence := 3, inCount := inCount, deadline := .inClocks 0, settling := false }

/-- The unit with a READY lane 7 that carries an exchange, one host exchange and a TRAIN LANE waiting. -/
def carrying (source : ExchangeSource) (isSettling : Bool) : State :=
  (locked [fresh { send with lane := 7 }]).setLane 7
    { ready with
      inFlight := some { exchange source 0 with settling := isSettling }, queue := [asking 7],
      waitingTrain := some (ref 2) }

/-- LANE CONFIGURE with enable 0 of a lane with each kind of exchange in flight; auto-retrain switched in FAULTED. -/
theorem witness_LaneConfigureSetsTheLane_disable :
    let h := from_ 0 (laneBytes 0 2)
    (holds h (carrying (.scheduled (firing send)) false)).heldCommand 0x20 = some h ∧
    ((carrying (.scheduled (firing send)) false).lanes[(7 : LaneId)]).inFlight =
      some (exchange (.scheduled (firing send)) 0) ∧
    ((carrying (.scheduled (firing fetch)) true).lanes[(7 : LaneId)]).inFlight =
      some { exchange (.scheduled (firing fetch)) 0 with settling := true } ∧
    ((carrying (.host (asking 7).exchange) false).lanes[(7 : LaneId)]).inFlight =
      some (exchange (.host (asking 7).exchange) 0) ∧
    ((carrying (.probe false) false).lanes[(7 : LaneId)]).inFlight = some (exchange (.probe false) 0) ∧
    ((carrying (.probe false) false).lanes[(7 : LaneId)]).state ≠ .off ∧
    ((carrying (.probe false) false).lanes[(7 : LaneId)]).rate = .mbit25 ∧
    ((unit.setLane 7 { ready with state := .faulted }).lanes[(7 : LaneId)]).autoRetrain = false ∧
    ((unit.setLane 7 { ready with state := .faulted }).lanes[(7 : LaneId)]).retrainTimer = none ∧
    ((unit.setLane 7 { ready with state := .faulted, retrainTimer := some 9 }).lanes[(7 : LaneId)]).retrainTimer ≠ none ∧
    recordByte (from_ 0 [0x20, 0, 0, 0, 0, 0, 0, 0, 7, 1, 2, 0, 1, 1]).record 11 = 0 := by decide +kernel

theorem witness_LaneConfigureSetsTheLane_tables : tableLaw (carrying (.scheduled (firing send)) false).activeEntries := by
  unfold tableLaw
  decide +kernel

theorem witness_TrainLaneBeginsARun :
    let h := from_ 1 [0x21, 0, 0, 0, 0, 0, 0, 0, 7]
    (holds h unit).heldCommand 0x21 = some h ∧ reservedZero h.record [(8, 8)] = true ∧ recordByte h.record 8 = 7 ∧
    recordByte (from_ 1 [0x21, 0, 0, 0, 0, 0, 0, 0, 8]).record 8 = 8 ∧ (unit.lanes[(7 : LaneId)]).state = .off ∧
    ((unit.setLane 7 { ready with waitingTrain := some (ref 2) }).lanes[(7 : LaneId)]).waitingTrain = some (ref 2) ∧
    ((unit.setLane 7 ready).lanes[(7 : LaneId)]).state ≠ .off ∧ unit.pairs[(2 : PairId)].serves = true ∧
    ((unit.setLane 7 (awaiting .training (.probe true) 0)).lanes[(7 : LaneId)]).state = .training ∧
    (ready.waitingTrain = none) := by decide +kernel

/-- The bytes of LANE EXCHANGE: a PROBE on lane 0 with a window. -/
def probeBytes (window : Nat) : List Nat := [0x22, 0, 0, 0, 0, 0, 0, 0, 0, 4, 0, 0, window]

theorem witness_HostExchangesQueueAndStart :
    let h := from_ 1 (probeBytes 7)
    (holds h unit).heldCommand 0x22 = some h ∧ recordByte h.record 8 = 0 ∧ kindOfCode (recordByte h.record 9) = some .probe ∧
    recordField16 h.record 12 = 7 ∧ reservedZero h.record ([(8, 13), (16, 23)] ++ wordBytes 0) = true ∧
    minimumWindow 0 0 .mbit25 100 = 7 ∧ recordField16 (from_ 1 (probeBytes 6)).record 12 = 6 ∧
    recordField16 (from_ 1 (probeBytes 3)).record 12 = 3 ∧
    recordByte (from_ 1 [0x22, 0, 0, 0, 0, 0, 0, 0, 8, 4]).record 8 = 8 ∧
    recordByte (from_ 1 [0x22, 0, 0, 0, 0, 0, 0, 0, 7, 5]).record 9 = 5 ∧ (unit.lanes[(0 : LaneId)]).state ≠ .ready ∧
    ((unit.setLane 0 ready).lanes[(0 : LaneId)]).state = .ready ∧
    ((unit.setLane 0 { ready with queue := List.replicate 4 (asking 7) }).lanes[(0 : LaneId)]).queue.length = 4 ∧
    ((unit.setLane 0 { ready with queue := List.replicate 3 (asking 7) }).lanes[(0 : LaneId)]).queue.length < 4 ∧
    unit.hostMayStart 0 = false ∧ (unit.setLane 0 { ready with queue := [asking 7] }).hostMayStart 0 = true ∧
    ((locked []).setLane 0 { ready with queue := [asking 900] }).hostMayStart 0 = true ∧
    ((locked []).setLane 0 { ready with queue := [asking 901] }).hostMayStart 0 = false := by decide +kernel

/-- The outlook with two marks on the lane, the first of them reached and acted for, and with none; deadlines. -/
theorem witness_HostExchangesQueueAndStart_outlook :
    let table := [fresh send, fresh { send with handle := 8, mark := 400 }]
    (locked table).sc.plan = some plan ∧ (locked table).sc.cycleTime = 100 ∧
    (locked table).outlook { count := 1, tag := none, position := 1 } 0 = 400 ∧
    (locked table).outlook { count := 1, tag := none, position := 0 } 0 = 100 ∧
    (locked table).outlook { count := 1, tag := none, position := 1 } 1 = 1000 ∧ (locked table).dev = .running ∧
    unit.dev ≠ .running ∧ unit.dev ≠ .halted ∧ unit.sc.plan = none ∧
    (∀ i : Fin 2, (i.val < 1 ↔ ((table[i.val]?.getD (fresh marker)).entry.mark ≤ 100))) := by decide +kernel

theorem witness_HostExchangesQueueAndStart_tables :
    tableLaw (locked [fresh send, fresh { send with handle := 8, mark := 400 }]).activeEntries := by
  unfold tableLaw
  decide +kernel

theorem witness_ProbesAndRetrainingAtTheirTime :
    unit.serving = true ∧ ((unit.setLane 0 { ready with state := .training, probesSent := 63 }).lanes[(0 : LaneId)]).state = .training ∧
    ((unit.setLane 0 { ready with state := .training, probesSent := 63 }).lanes[(0 : LaneId)]).probesSent < 64 ∧
    ((unit.setLane 0 { ready with state := .training, probesSent := 64 }).lanes[(0 : LaneId)]).probesSent = 64 ∧
    ((unit.setLane 0 { ready with state := .faulted, retrainTimer := some 0 }).lanes[(0 : LaneId)]).retrainTimer = some 0 ∧
    ((unit.setLane 0 { ready with state := .faulted, retrainTimer := some 0 }).lanes[(0 : LaneId)]).state = .faulted ∧
    (unit.lanes[(0 : LaneId)]).state ≠ .training ∧ (unit.lanes[(0 : LaneId)]).state ≠ .faulted := by decide +kernel

theorem witness_RepliesAreJudgedByTheirFormat :
    (List.replicate 16 (7 : StationWord)).length = 16 ∧ (3 : Byte) ≠ 4 ∧ (17 : Nat) ≠ 16 ∧
    checkGood (replyFrame 3 0 []) = true ∧ (replyFrame 3 0 [])[31]? ≠ none ∧ checkGood [] = false ∧
    replyOf (lineCells (lanePattern ++ [true, false]) 4) = some [true, false] ∧
    replyOf (lineCells (lanePattern ++ [true, false]) 3) = none ∧
    replyOf (lineCells (lanePattern ++ [true, false]) 5) = none ∧
    (lineCells (true :: lanePattern) 4).take 16 ≠ (lanePattern.map fun b => (!b, b)) ∧
    replyOf (lineCells (true :: lanePattern) 4) = none ∧ (List.replicate 15 true).length < 16 ∧
    checkGood (msbBits 16 (checkOf []).toNat) = true ∧ (msbBits 16 (checkOf []).toNat).length < 32 ∧
    judgeReply 3 0 (replyFrame 3 3 []) = .badReply ∧ judgeReply 3 17 (replyFrame 3 0 (List.replicate 17 0)) = .badReply ∧
    judgeReply 3 1 (replyFrame 3 1 [9]) = .badReply := by decide +kernel

/-- The unit LOCKED with an entry in flight on lane 0, whose lane has had `failures` in a row. -/
def flying (e : Entry) (failures : Nat) : State :=
  (locked [fresh e]).setLane 0 { awaiting .ready (.scheduled (firing e)) e.inCount with failures := failures }

/-- A conclusion by the cells of a reply. -/
theorem byReply {s : State} {l : LaneId} {x : Exchange} {j : Verdict} {words sent : List StationWord} {echo : Byte}
    {status : Nat} (hs : s.serving = true) (hx : s.lanes[l].inFlight = some x) (hn : x.settling = false)
    (hr : s.lanes[l].receiver = .reply)
    (hc : replyOf (replyCells echo status sent) = some (replyFrame echo status sent))
    (hj : j = judgeReply x.sequence x.inCount (replyFrame echo status sent))
    (hw : words = replyWords (replyFrame echo status sent)) :
    Concludes (.replyComplete l (replyCells echo status sent)) s l x j words :=
  ⟨hs, hx, hn, .inl ⟨_, _, rfl, hc, hr, hj, hw⟩⟩

/-- A DONE of a SEND by its reply; a NO_REPLY of a FETCH by its deadline; a BAD_CHECK by the idle line. -/
theorem witness_ScheduledExchangesConclude :
    Concludes (.replyComplete 0 (replyCells 3 0 [])) (flying send 0) 0 (exchange (.scheduled (firing send)) 0) .done [] ∧
    Concludes (.exchangeDeadline 0) (flying fetch 4) 0 (exchange (.scheduled (firing fetch)) 4) .noReply [] ∧
    Concludes (.lineIdleTimeout 0 []) (flying fetch 4) 0 (exchange (.scheduled (firing fetch)) 4) .badCheck [] ∧
    Concludes (.replyComplete 0 (replyCells 3 0 [1, 2, 3, 4])) (flying fetch 4) 0 (exchange (.scheduled (firing fetch)) 4)
      .done [1, 2, 3, 4] := by
  refine ⟨byReply rfl rfl rfl rfl ?_ ?_ ?_, ⟨rfl, rfl, rfl, .inr (.inl ⟨rfl, rfl, rfl, rfl⟩)⟩,
    ⟨rfl, rfl, rfl, .inr (.inr ⟨_, rfl, ?_, rfl, rfl, rfl⟩)⟩, byReply rfl rfl rfl rfl ?_ ?_ ?_⟩ <;> decide +kernel

theorem witness_ScheduledExchangesConclude_premises :
    ((flying send 0).lanes[(0 : LaneId)]).state = .ready ∧ ((flying fetch 4).lanes[(0 : LaneId)]).failures = 4 ∧
    (firing fetch).attached = true ∧ { firing send with attached := false }.attached = false ∧
    tableLaw (flying send 0).activeEntries ∧ tableLaw (flying fetch 4).activeEntries := by
  unfold tableLaw
  decide +kernel

/-- The same on a TRAINING lane with five failures in a row. -/
theorem witness_ScheduledExchangesConclude_training :
    let s := (flying fetch 5).setLane 0 { awaiting .training (.scheduled (firing fetch)) 4 with failures := 5 }
    Concludes (.exchangeDeadline 0) s 0 (exchange (.scheduled (firing fetch)) 4) .noReply [] ∧
    (s.lanes[(0 : LaneId)]).state = .training ∧ (s.lanes[(0 : LaneId)]).receiver = .reply := by
  refine ⟨⟨rfl, rfl, rfl, .inr (.inl ⟨rfl, rfl, rfl, rfl⟩)⟩, ?_⟩
  decide +kernel

/-- A host exchange of pair 1 in flight on lane 0. -/
def hostFlying (e : HostExchange) : State := unit.setLane 0 { awaiting .ready (.host e) e.inCount with failures := 4 }

theorem witness_HostExchangeCompletesItsCommand :
    let p := (asking 7).exchange
    let f := { p with kind := .fetch, inCount := 1 }
    Concludes (.replyComplete 0 (replyCells 3 0 [])) (hostFlying p) 0 (exchange (.host p) 0) .done [] ∧
    Concludes (.replyComplete 0 (replyCells 3 0 [9])) (hostFlying f) 0 (exchange (.host f) 1) .done [9] ∧
    Concludes (.exchangeDeadline 0) (hostFlying p) 0 (exchange (.host p) 0) .noReply [] := by
  refine ⟨byReply rfl rfl rfl rfl ?_ ?_ ?_, byReply rfl rfl rfl rfl ?_ ?_ ?_,
    ⟨rfl, rfl, rfl, .inr (.inl ⟨rfl, rfl, rfl, rfl⟩)⟩⟩ <;> decide +kernel

theorem witness_HostExchangeCompletesItsCommand_premises :
    ((hostFlying (asking 7).exchange).lanes[(0 : LaneId)]).state = .ready ∧
    ((hostFlying (asking 7).exchange).lanes[(0 : LaneId)]).failures = 4 ∧
    (hostFlying (asking 7).exchange).pairs[(1 : PairId)].serves = true := by decide +kernel

/-- A host exchange of a pair in ERROR, and of one that is deleting. -/
theorem witness_HostExchangeCompletesItsCommand_retired :
    let f := { (asking 7).exchange with kind := .fetch, inCount := 1 }
    let s := (hostFlying f).setPair 1 { livePair with state := .error }
    let d := (hostFlying f).setPair 1 { livePair with deleting := some { ref := ref 0, retired := 0 } }
    Concludes (.replyComplete 0 (replyCells 3 0 [9])) s 0 (exchange (.host f) 1) .done [9] ∧
    Concludes (.replyComplete 0 (replyCells 3 0 [9])) d 0 (exchange (.host f) 1) .done [9] ∧
    s.pairs[(1 : PairId)].serves = false ∧ d.pairs[(1 : PairId)].serves = false := by
  refine ⟨byReply rfl rfl rfl rfl ?_ ?_ ?_, byReply rfl rfl rfl rfl ?_ ?_ ?_, ?_⟩ <;> decide +kernel

/-- A training lane 0 with a probe of its run in flight. -/
def probing (sent good : Nat) : State :=
  unit.setLane 0
    { awaiting .training (.probe true) 0 with probesSent := sent, goodRun := good, waitingTrain := some (ref 1) }

theorem witness_ProbesBringTheLaneToReadyOrFaulted :
    Concludes (.replyComplete 0 (replyCells 3 0 [])) (probing 64 3) 0 (exchange (.probe true) 0) .done [] ∧
    Concludes (.replyComplete 0 (replyCells 3 0 [])) (probing 63 2) 0 (exchange (.probe true) 0) .done [] ∧
    Concludes (.exchangeDeadline 0) (probing 63 3) 0 (exchange (.probe true) 0) .noReply [] ∧
    Concludes (.exchangeDeadline 0) (probing 64 3) 0 (exchange (.probe true) 0) .noReply [] ∧
    Concludes (.replyComplete 0 (replyCells 3 0 [])) (probing 64 2) 0 (exchange (.probe true) 0) .done [] ∧
    ((probing 64 3).lanes[(0 : LaneId)]).state = .training ∧ ((probing 64 3).lanes[(0 : LaneId)]).goodRun = 3 ∧
    ((probing 63 2).lanes[(0 : LaneId)]).goodRun < 3 ∧ ((probing 63 2).lanes[(0 : LaneId)]).probesSent < 64 ∧
    ((probing 64 3).lanes[(0 : LaneId)]).probesSent = 64 ∧
    ((probing 64 3).lanes[(0 : LaneId)]).waitingTrain = some (ref 1) ∧ (probing 64 3).pairs[(1 : PairId)].serves = true := by
  refine ⟨byReply rfl rfl rfl rfl ?_ ?_ ?_, byReply rfl rfl rfl rfl ?_ ?_ ?_,
    ⟨rfl, rfl, rfl, .inr (.inl ⟨rfl, rfl, rfl, rfl⟩)⟩, ⟨rfl, rfl, rfl, .inr (.inl ⟨rfl, rfl, rfl, rfl⟩)⟩,
    byReply rfl rfl rfl rfl ?_ ?_ ?_, ?_⟩ <;> decide +kernel

/-- A probe of an abandoned run. -/
theorem witness_ProbesBringTheLaneToReadyOrFaulted_abandoned :
    Concludes (.exchangeDeadline 0) (unit.setLane 0 (awaiting .training (.probe false) 0)) 0 (exchange (.probe false) 0)
      .noReply [] :=
  ⟨rfl, rfl, rfl, .inr (.inl ⟨rfl, rfl, rfl, rfl⟩)⟩

theorem witness_SixthFailureFaultsTheLane :
    Concludes (.exchangeDeadline 0) (flying fetch 5) 0 (exchange (.scheduled (firing fetch)) 4) .noReply [] ∧
    (∀ b, (exchange (.scheduled (firing fetch)) 4).source ≠ .probe b) ∧
    ((flying fetch 5).lanes[(0 : LaneId)]).state = .ready ∧ ((flying fetch 5).lanes[(0 : LaneId)]).failures = 5 := by
  refine ⟨⟨rfl, rfl, rfl, .inr (.inl ⟨rfl, rfl, rfl, rfl⟩)⟩, ?_⟩
  decide +kernel

theorem witness_SixthFailureFaultsTheLane_tables : tableLaw (flying fetch 5).activeEntries := by
  unfold tableLaw
  decide +kernel

/-- The sixth failure of a host exchange, with another waiting. -/
theorem witness_SixthFailureFaultsTheLane_host :
    let s := (hostFlying (asking 7).exchange).setLane 0
      { awaiting .ready (.host (asking 7).exchange) 0 with failures := 5, queue := [asking 8], autoRetrain := true }
    Concludes (.exchangeDeadline 0) s 0 (exchange (.host (asking 7).exchange) 0) .noReply [] ∧
    (∀ b, (exchange (.host (asking 7).exchange) 0).source ≠ .probe b) ∧ (s.lanes[(0 : LaneId)]).failures = 5 := by
  refine ⟨⟨rfl, rfl, rfl, .inr (.inl ⟨rfl, rfl, rfl, rfl⟩)⟩, ?_⟩
  decide +kernel

theorem witness_FramesAreRepliesStaleOrCutOff :
    unit.serving = true ∧ ((unit.setLane 0 ready).lanes[(0 : LaneId)]).receiver = .idle ∧
    ((unit.setLane 0 ready).lanes[(0 : LaneId)]).inFlight = none ∧
    ({ awaiting .training (.probe true) 0 with receiver := .idle } : Lane).inFlight = some (exchange (.probe true) 0) ∧
    (unit.lanes[(0 : LaneId)]).state = .off ∧
    ((unit.setLane 0 { ready with receiver := .stale false }).lanes[(0 : LaneId)]).receiver = .stale false ∧
    ((unit.setLane 0 { ready with receiver := .stale true }).lanes[(0 : LaneId)]).receiver = .stale true ∧
    replyOf (replyCells 5 0 []) = some (replyFrame 5 0 []) ∧ 8 ≤ (replyFrame 5 0 []).length ∧
    replyOf (lineCells (lanePattern ++ List.replicate 8 true) 0) = none ∧
    (frameBits (lineCells (lanePattern ++ List.replicate 8 true) 0)).length = 8 ∧ replyOf [] = none ∧
    ((unit.setLane 0 { ready with receiver := .cutOff }).lanes[(0 : LaneId)]).receiver = .cutOff := by decide +kernel

/-! ### Witnesses: rings, pairs and the event ring as they are made -/

/-- The bytes of a creation: opcode, number, interrupt enable, size, base. -/
def makeBytes (op number int size base : Nat) : List Nat :=
  [op, 0, 0, 0, 0, 0, 0, 0, number, int, 0, 0, size % 256, size / 256, 0, 0, base]

/-- The unit with nothing made yet but pair 0. -/
def bare : State := { unit with pairs := (Vector.replicate 4 Pair.reset).set 0 livePair }

theorem witness_CreationsMakeFreshRings_ring :
    let h := from_ 0 (makeBytes 0x30 15 0 4096 64)
    (holds h bare).heldCommand 0x30 = some h ∧ h.pair = 0 ∧ recordByte h.record 8 = 15 ∧
    recordField16 h.record 12 = 2 ^ 12 ∧ (recordAddress h.record 16).toNat % 64 = 0 ∧
    reservedZero h.record [(8, 8), (12, 13), (16, 23)] = true ∧ (bare.rings[(15 : RingId)]).state = .absent ∧
    (bare.rings[(15 : RingId)]).closing = none ∧
    recordByte (from_ 0 (makeBytes 0x30 16 0 2 64)).record 8 = 16 ∧
    (recordAddress (from_ 0 (makeBytes 0x30 0 0 2 63)).record 16).toNat % 64 ≠ 0 ∧
    ((bare.setRing 15 ring4).rings[(15 : RingId)]).state ≠ .absent := by decide +kernel

theorem witness_CreationsMakeFreshRings_pair :
    let h := from_ 0 (makeBytes 0x60 3 1 4 64)
    (holds h bare).heldCommand 0x60 = some h ∧ recordByte h.record 8 = 3 ∧ recordByte h.record 9 = 1 ∧
    recordField16 h.record 12 = 2 ^ 2 ∧ (recordAddress h.record 16).toNat % 64 = 0 ∧
    (recordAddress h.record 24).toNat % 64 = 0 ∧ reservedZero h.record [(8, 9), (12, 13), (16, 31)] = true ∧
    (bare.pairs[(3 : PairId)]).state = .absent ∧ (bare.pairs[(3 : PairId)]).deleting = none ∧
    recordByte (from_ 0 (makeBytes 0x60 0 1 4 64)).record 8 = 0 ∧
    recordByte (from_ 0 (makeBytes 0x60 4 1 4 64)).record 8 = 4 ∧ (unit.pairs[(3 : PairId)]).state ≠ .absent := by
  decide +kernel

theorem witness_CreationsMakeFreshRings_events :
    let h := from_ 0 (makeBytes 0x50 0 1 16 64)
    (holds h bare).heldCommand 0x50 = some h ∧ recordByte h.record 9 = 1 ∧ recordField16 h.record 12 = 2 ^ 4 ∧
    (recordAddress h.record 16).toNat % 64 = 0 ∧ reservedZero h.record [(9, 9), (12, 13), (16, 23)] = true ∧
    bare.ew.state ≠ .active ∧ events16.state = .active ∧
    recordByte (from_ 0 (makeBytes 0x50 0 2 16 64)).record 9 = 2 := by decide +kernel

/-- The bytes of RING RELEASE of ring 5 up to a count. -/
def releaseBytes (count : Nat) : List Nat := [0x31, 0, 0, 0, 0, 0, 0, 0, 5, 0, 0, 0, count]

/-- The unit with ring 5 as given. -/
def withRing (r : InRing) : State := unit.setRing 5 r

theorem witness_RingsAreReleasedAndDeleted :
    let h := from_ 1 (releaseBytes 2)
    let d := from_ 0 [0x32, 0, 0, 0, 0, 0, 0, 0, 5]
    (holds h unit).heldCommand 0x31 = some h ∧ recordByte h.record 8 = 5 ∧
    reservedZero h.record [(8, 8), (12, 15)] = true ∧ recordField32 h.record 12 = 2 ∧
    recordByte (from_ 1 [0x31, 0, 0, 0, 0, 0, 0, 0, 16]).record 8 = 16 ∧ (unit.rings[(5 : RingId)]).state = .absent ∧
    ((withRing { ring4 with written := 2 }).rings[(5 : RingId)]).written = 2 ∧
    ((withRing { ring4 with written := 1 }).rings[(5 : RingId)]).written = 1 ∧
    (holds d unit).heldCommand 0x32 = some d ∧ d.pair = 0 ∧ reservedZero d.record [(8, 8)] = true ∧
    ((withRing ring4).rings[(5 : RingId)]).state ≠ .absent ∧ ((withRing ring4).rings[(5 : RingId)]).closing = none ∧
    (withRing ring4).ringInUse 5 = false ∧ (withRing ring4).slotQueue = [] ∧
    ((withRing { ring4 with reserved := 1 }).rings[(5 : RingId)]).reserved ≠ 0 ∧
    fresh fetch ∈ (walking [fresh fetch]).active ∧ fetch.ring = 5 ∧ (withRing ring4).serving = true ∧
    ((withRing { ring4 with closing := some (ref 0) }).rings[(5 : RingId)]).closing = some (ref 0) := by decide +kernel

/-- A FETCH judged DONE on lane 0 that waits for its slot write on ring 5. -/
def settling (r : InRing) (writing : Bool) : State :=
  { (((locked [fresh fetch]).setRing 5 r).setLane 0
      { ready with inFlight := some { exchange (.scheduled (firing fetch)) 4 with settling := true } }) with
    slotQueue := [{ lane := 0, words := [1, 2, 3, 4] }], slotWriting := writing }

/-- A slot write queued for ring 5, which is closing or asked to be; ring 6 has none; a commit names ring 5. -/
theorem witness_RingsAreReleasedAndDeleted_queued :
    let s := { settling { ring4 with reserved := 1, closing := some (ref 0) } false with active := [] }
    (⟨0, [1, 2, 3, 4]⟩ : SlotWrite) ∈ s.slotQueue ∧
    (s.lanes[(0 : LaneId)]).inFlight = some { exchange (.scheduled (firing fetch)) 4 with settling := true } ∧
    (firing fetch).ring = 5 ∧ (firing fetch).ring ≠ 6 ∧ s.serving = true ∧
    (s.rings[(5 : RingId)]).closing = some (ref 0) ∧
    ((s.setRing 6 ring4).rings[(6 : RingId)]).reserved = 0 ∧ ((s.setRing 6 ring4).rings[(6 : RingId)]).closing = none ∧
    ((s.setRing 6 { ring4 with closing := some (ref 0) }).rings[(6 : RingId)]).closing = some (ref 0) ∧
    (s.setRing 6 ring4).pendingCommit = none ∧
    (editing (some (ref 1)) [fetch] (withRing ring4)).pendingCommit ≠ none ∧
    (editing (some (ref 1)) [fetch] (withRing ring4)).edit = [fetch] := by decide +kernel

theorem witness_SlotsAreReservedAndWrittenInOrder :
    ring4.state = .active ∧ (({ ring4 with written := 1, reserved := 3 } : InRing).written - 0).toNat + 3 = 4 ∧
    (ring4.written - ring4.returned).toNat + 3 < ring4.slotCount ∧ ({ ring4 with state := .error } : InRing).state = .error ∧
    (settling ring4 false).serving = true ∧
    (settling ring4 false).slotQueue = [{ lane := 0, words := [1, 2, 3, 4] }] ∧
    (settling ring4 false).settlingFiring 0 = some (firing fetch) ∧ (settling ring4 false).slotWriting = false ∧
    (settling ring4 true).slotWriting = true ∧ ((settling ring4 false).rings[(5 : RingId)]).state = .active := by
  decide +kernel

/-- The hypotheses of a failed slot write, whole: position 1 of ring 5. -/
theorem witness_SlotWriteEndSettlesTheFiring_error :
    let s := settling { ring4 with written := 5, reserved := 1 } true
    s.serving = true ∧ s.slotQueue = [{ lane := 0, words := [1, 2, 3, 4] }] ∧ s.slotWriting = true ∧
    s.settlingFiring 0 = some (firing fetch) ∧
    (s.rings[(5 : RingId)]).written.toNat % (s.rings[(5 : RingId)]).slotCount = 1 ∧
    [({ kind := .ringFault, subject := 5, cycle := 1, time := 5000, detail := pack [(60, 0), (1, 16)] } : Event)] =
      [{ kind := .ringFault, subject := BitVec.ofNat 16 (firing fetch).ring.val, cycle := (firing fetch).cycle,
         time := (firing fetch).start, detail := pack [((firing fetch).handle, 0), (1, 16)] }] := by decide +kernel

theorem witness_SlotWriteEndSettlesTheFiring :
    (settling ring4 true).serving = true ∧ (settling ring4 true).settlingFiring 0 = some (firing fetch) ∧
    (settling ring4 true).slotWriting = true ∧ tableLaw (settling ring4 true).activeEntries ∧
    (firing fetch).attached = true ∧ (settling { ring4 with state := .error } false).slotWriting = false ∧
    ((settling { ring4 with state := .error } false).rings[(5 : RingId)]).state ≠ .active ∧ fetch.kind = .fetch := by
  unfold tableLaw
  decide +kernel

/-! ### Witnesses: time base and synchronization -/

/-- The bytes of SET CYCLE PLAN for the plan of unit B. -/
def planBytes : List Nat :=
  [0x40, 0, 0, 0, 0, 0, 0, 0, 100, 0, 0xE8, 3, 4, 10, 200, 0, 1, 2, 9, 1, 200, 0]

/-- The unit of `locked` with another synchronization part. -/
def synced (f : TimeSync → TimeSync) : State := { locked [] with sc := f (locked []).sc }

theorem witness_PlanIsSetAndLeaderResigns :
    let h := from_ 0 planBytes
    let r := from_ 1 [0x42]
    (holds h unit).heldCommand 0x40 = some h ∧ h.pair = 0 ∧ unit.dev = .config ∧ (locked []).dev ≠ .config ∧
    recordPlan h.record = some plan ∧ recordPlan (cmd [0x40]) = none ∧ (holds r unit).heldCommand 0x42 = some r ∧
    reservedZero r.record [] = true ∧ reservedZero (from_ 1 [0x42, 1]).record [] = false ∧
    (locked []).sc.role ≠ .leader ∧ (synced fun t => { t with role := .leader }).sc.hold = false ∧
    (synced fun t => { t with role := .leader, hold := true }).sc.hold = true := by decide +kernel

theorem witness_BeaconsStartWhenDue :
    (synced fun t => { t with role := .leader, cycleTime := 1000 }).leaderDue plan = true ∧
    (synced fun t => { t with role := .leader, cycleTime := 999 }).leaderDue plan = false ∧
    (synced fun t => { t with cycleTime := 1030 }).backupDue plan = true ∧
    (synced fun t => { t with cycleTime := 1029 }).backupDue plan = false ∧
    (synced fun t => { t with sync := .unsynced, cycleTime := 1030 }).freeRunDue plan = true ∧
    (synced fun t => { t with sync := .unsynced, cycleTime := 1031 }).freeRunDue plan = false := by decide +kernel

theorem witness_BeaconSentIsBeaconReceived :
    (7 : Nat) < 8 ∧ (31 : Nat) < 32 ∧ (6 : Nat) ≤ 6 ∧ (63 : Nat) < 2 ^ 6 ∧ (60000 : Nat) < 65536 ∧ (5 : Nat) ≠ 6 ∧
    beaconFault 64 60000 (beaconBits 7 31 63 64 true 60000) = none ∧
    (beaconBits 7 31 63 64 true 60000)[60]? = some true ∧ beaconFault 4 1000 (beaconBits 7 31 4 4 true 1000) = some 5 ∧
    beaconFault 4 1000 (beaconBits 7 31 4 8 true 1000) = some 3 ∧ beaconFault 4 1000 (beaconBits 7 31 3 4 true 999) = some 4 ∧
    beaconFault 4 1000 ((beaconBits 7 31 3 4 true 1000).set 8 false) = some 2 ∧
    beaconFault 4 1000 ((beaconBits 7 31 3 4 true 1000).take 60) = some 1 := by decide +kernel

/-- Section 11.3: a frame cut off after 13 bits shows its rank and the two high bits of its unit number. -/
theorem test_rejected_detail_of_a_short_frame :
    rejectedDetail 1 ((beaconBits 5 31 3 4 true 1000).take 13) = pack [(1, 0), (5, 8), (24, 11)] ∧
    rejectedDetail 5 (beaconBits 5 31 3 4 true 1000) = pack [(5, 0), (5, 8), (31, 11), (3, 16), (1, 31)] := by
  decide +kernel

/-- A beacon with a count, as unit A of section 6.8 sends it. -/
def beaconA (count : Nat) : List Bool := beaconBits 0 3 count 4 false 1000

/-- The unit of `synced` with a captured edge 6 STU ago. -/
def captured (f : TimeSync → TimeSync) : State :=
  synced fun t => f { t with receiving := some { time := 4994, clocks := 40, length := 100 } }

theorem witness_CapturedFramesAreRejectedWithoutTrace :
    (captured id).sc.plan = some plan ∧ (captured id).serving = true ∧ (captured id).sc.sync ≠ .off ∧
    (locked []).sc.receiving = none ∧ (locked []).sc.sending = none ∧ (captured id).sc.receiving ≠ none ∧
    beaconFault 4 1000 [] = some 1 ∧ (captured id).sc.cycleTime < 1000 + 200 ∧
    (captured fun t => { t with cycleTime := 1199 }).sc.cycleTime < 1000 + 200 ∧
    1000 + 200 ≤ (captured fun t => { t with cycleTime := 1200, role := .leader }).sc.cycleTime ∧
    (captured fun t => { t with cycleTime := 1200, role := .leader }).sc.sync ≠ .unsynced ∧
    (captured fun t => { t with sync := .unsynced }).sc.sync = .unsynced ∧ unit.sc.sync = .off ∧
    (captured fun t => { t with cycleTime := 1200, role := .leader, hold := true, resign := some (ref 2) }).sc.hold = true := by
  decide +kernel

theorem witness_ValidBeaconIsTakenAsAnEdge :
    (captured id).sc.receiving = some { time := 4994, clocks := 40, length := 100 } ∧ (captured id).serving = true ∧
    beaconFault 4 1000 (beaconA 2) = none ∧ beaconCount (beaconA 2) = ((captured id).sc.cycleCount + 1) % 4 ∧
    beaconCount (beaconA 0) ≠ ((captured id).sc.cycleCount + 1) % 4 ∧ beaconFault 4 1000 (beaconA 0) = none ∧
    (captured fun t => { t with sync := .unsynced }).sc.sync = .unsynced ∧
    (captured fun t => { t with role := .leader, hold := true, resign := some (ref 2) }).sc.role = .leader ∧
    (captured fun t => { t with role := .leader, hold := true, resign := some (ref 2) }).sc.hold = true ∧
    (captured id).pairs[(2 : PairId)].serves = true ∧ (captured id).pendingCommit = none ∧
    (editing (some (ref 1)) [send] (captured fun t => { t with cycleCount := 3 })).pendingCommit = some (ref 1) ∧
    beaconCount (beaconA 0) = ((captured fun t => { t with cycleCount := 3 }).sc.cycleCount + 1) % 4 := by
  decide +kernel

/-- The unit with a beacon of its own on the pair. -/
def sending (clocks : Nat) (restart counts : Bool) (f : TimeSync → TimeSync) : State :=
  synced fun t => f { t with
    sending := some { instant := { time := 4994, clocks := 40, length := 100 }, count := 2, restart := restart,
                      clocks := clocks, counts := counts } }

/-- The unit in the last cycle of a matrix cycle with its own beacon of count 0 sent whole. -/
def sendingZero (f : TimeSync → TimeSync) : State :=
  synced fun t => f { t with
    cycleCount := 3,
    sending := some { instant := { time := 4994, clocks := 40, length := 100 }, count := 0, restart := false,
                      clocks := 610, counts := true } }

theorem witness_OwnBeaconElectsItsSender :
    (sending 609 true true id).sc.sending.map OwnBeacon.clocks = some 609 ∧
    (sending 610 true true id).sc.sending.map OwnBeacon.clocks = some 610 ∧ (sending 610 true true id).serving = true ∧
    (sending 610 true true id).sc.role ≠ .leader ∧
    (sending 610 false true fun t => { t with role := .leader }).sc.role = .leader ∧
    (sending 610 true false id).sc.sending.map OwnBeacon.counts = some false ∧
    (2 : Nat) = ((sending 610 true true id).sc.cycleCount + 1) % 4 ∧
    (2 : Nat) ≠ ((sending 610 true true fun t => { t with cycleCount := 2 }).sc.cycleCount + 1) % 4 ∧
    (sending 610 true true fun t => { t with sync := .unsynced }).sc.sync = .unsynced ∧
    (editing (some (ref 1)) [send] (sendingZero id)).pendingCommit = some (ref 1) ∧
    (sendingZero id).sc.sending.map OwnBeacon.count = some 0 ∧ (sendingZero id).serving = true ∧
    (0 : Nat) = ((sendingZero id).sc.cycleCount + 1) % 4 ∧ (sendingZero id).pendingCommit = none := by decide +kernel

theorem witness_ReadbackMismatchEndsTheBeaconOrHalts :
    (sending 110 true true id).sc.sending.map OwnBeacon.counts = some true ∧ (sending 110 true true id).sc.sync ≠ .off ∧
    (sending 110 true true id).serving = true ∧ (sending 110 true false id).sc.sending.map OwnBeacon.counts = some false ∧
    (10 : Nat) ≤ 10 ∧ (11 : Nat) ≤ 11 ∧ (11 : Nat) ≤ 15 ∧ (15 : Nat) ≤ 15 ∧ (16 : Nat) ≤ 16 ∧ (60 : Nat) ≤ 60 ∧
    (editing (some (ref 1)) [send] (sending 110 true true id)).session = some { owner := 1, commit := some (ref 1) } ∧
    (sending 110 true true id).session = none := by decide +kernel

theorem witness_CyclesWithoutAnEdgeEndAtWm :
    (synced fun t => { t with cycleTime := 1200 }).watchDue plan = true ∧
    (synced fun t => { t with cycleTime := 1199 }).watchDue plan = false ∧
    (synced fun t => { t with cycleTime := 1200, role := .leader, hold := true }).watchDue plan = true ∧
    (synced fun t => { t with cycleTime := 1200, sync := .unsynced, firstFreeRun := true }).freeRunEnds plan = true ∧
    (synced fun t => { t with cycleTime := 1200, sync := .unsynced, rejectedInRun := 65535 }).sc.rejectedInRun < 65536 ∧
    { synced (fun t => { t with cycleTime := 1200, sync := .off }) with dev := .halted }.haltedEnds plan = true := by
  decide +kernel

/-- What is not due: before WM, in another state, or on a busy pair. -/
theorem witness_CyclesWithoutAnEdgeEndAtWm_early :
    (synced fun t => { t with cycleTime := 1199 }).sc.plan = some plan ∧
    (synced fun t => { t with cycleTime := 1199 }).sc.cycleTime < plan.bm + plan.watchMargin ∧ unit.sc.plan = none ∧
    unit.dev ≠ .running ∧ unit.dev ≠ .halted ∧ unit.sc.sync = .off ∧ (synced id).sc.sync ≠ .unsynced ∧
    (captured fun t => { t with cycleTime := 1200 }).sc.receiving ≠ none ∧
    (captured fun t => { t with cycleTime := 1200 }).sc.cycleTime = plan.bm + plan.watchMargin ∧
    (synced fun t => { t with cycleTime := 1200, sync := .unsynced }).sc.sync = .unsynced ∧
    (sending 300 true true fun t => { t with cycleTime := 1200 }).sc.sending ≠ none := by decide +kernel

/-! ### Witnesses: health -/

theorem witness_OutcomesScoreAndRearmClears :
    let h := from_ 1 [0x12, 0, 0, 0, 0, 0, 0, 0, 7]
    (disabled send).run.disabled = true ∧ { Runtime.fresh with score := 14 }.disabled = false ∧
    { Runtime.fresh with score := 14 }.score ≤ 14 ∧ (holds h (locked [disabled send])).heldCommand 0x12 = some h ∧
    reservedZero h.record [(8, 8)] = true ∧ reservedZero (from_ 1 [0x12, 1]).record [(8, 8)] = false ∧
    (locked []).findActive 7 = none ∧ (locked [disabled send]).findActive 7 = some (disabled send) := by decide +kernel

/-- A rearmed record leaves the level as it is in CONFIG, and changes it where the level was DEGRADED by that record alone. -/
theorem witness_OutcomesScoreAndRearmClears_levels :
    let rearmed := fun s : State => s.updateRun 7 fun x => { x with score := 0, disabled := false }
    let s : State := { unit with active := [disabled send] }
    (rearmed s).healthNow.degraded = s.hm.degraded ∧
    (rearmed s).healthNow.degraded ≠ { s with hm := s.healthNow }.hm.degraded := by decide +kernel

theorem witness_HealthLevelAndMatrixReports :
    (locked [disabled send]).healthNow.degraded ≠ (locked [disabled send]).hm.degraded ∧
    unit.healthNow.degraded = unit.hm.degraded ∧ unit.serving = true ∧ State.reset.serving = false ∧
    (reporting unit).recordsLaw := by
  unfold State.recordsLaw
  decide +kernel

/-! ### Witnesses: command queues -/

/-- The unit with one pair replaced. -/
def withPair (p : PairId) (q : Pair) : State := unit.setPair p q

theorem witness_QueueDeleteEndsThePairsWork :
    let h := from_ 0 [0x61, 0, 0, 0, 0, 0, 0, 0, 3]
    (holds h unit).heldCommand 0x61 = some h ∧ h.pair = 0 ∧ recordByte h.record 8 = 3 ∧
    reservedZero h.record [(8, 8)] = true ∧ recordByte (from_ 0 [0x61]).record 8 = 0 ∧
    recordByte (from_ 0 [0x61, 0, 0, 0, 0, 0, 0, 0, 4]).record 8 = 4 ∧ (bare.pairs[(3 : PairId)]).state = .absent ∧
    (unit.pairs[(3 : PairId)]).state ≠ .absent ∧ (unit.pairs[(3 : PairId)]).deleting = none ∧
    (unit.pairs[(3 : PairId)]).writing = none ∧ unit.fetching = none ∧ unit.pairHasWork 3 = false ∧
    { unit with fetching := some 3 }.fetching = some 3 ∧ unit.pairs[(0 : PairId)].serves = true ∧
    ((withPair 3 { livePair with deleting := some { ref := ref 0, retired := 2 } }).pairs[(3 : PairId)]).deleting =
      some { ref := ref 0, retired := 2 } ∧ (ref 0).pair ≠ 3 ∧
    (withPair 3 { livePair with deleting := some { ref := ref 0, retired := 2 } }).pairHasWork 3 = false := by
  decide +kernel

theorem witness_BadOpcodeAndAdminOnlyAreRefused :
    let h := from_ 1 [0x33]
    (holds h unit).holding = some h ∧ unit.serving = true ∧ unit.executing = none ∧ recordOpcode h.record ∉ opcodes ∧
    recordOpcode (from_ 1 [0x32]).record ∈ opcodes ∧
    (holds (from_ 3 [0x71]) unit).heldCommand 0x71 = some (from_ 3 [0x71]) ∧ (from_ 3 [0x71]).pair ≠ 0 := by
  decide +kernel

/-- Nothing is executed: OFF, FATAL, nothing held, a command in execution, another opcode held. -/
theorem witness_BadOpcodeAndAdminOnlyAreRefused_idle :
    State.reset.dev = .off ∧ { State.reset with dev := .fatal }.dev = .fatal ∧ unit.holding = none ∧
    { unit with executing := some (ref 1) }.executing ≠ none ∧ (holds (from_ 3 [0x71]) unit).holding ≠ none ∧
    recordByte (from_ 3 [0x71]).record 0 ≠ 0x70 ∧ (0x71 : Nat) ∈ opcodes ∧ (0x70 : Nat) ∈ opcodes := by decide +kernel

theorem witness_DoorbellsMoveOrFaultThePair :
    State.reset.serving = false ∧ unit.serving = true ∧ (unit.pairs[(0 : PairId)]).state = .active ∧
    (unit.pairs[(0 : PairId)]).deleting = none ∧ (7 : Reg).toNat < (unit.pairs[(0 : PairId)]).depth ∧
    (holds (from_ 0 [1]) unit).holding = some (from_ 0 [1]) ∧ (holds (from_ 3 [1]) unit).holding = some (from_ 3 [1]) ∧
    (from_ 3 [1]).pair ≠ 0 ∧ (unit.pairs[(0 : PairId)]).depth ≤ (8 : Reg).toNat ∧ (unit.pairs[(1 : PairId)]).depth ≤ (8 : Reg).toNat ∧
    ((withPair 1 { livePair with cqTail := 3, cqHead := 6 }).pairs[(1 : PairId)]).unconsumed = 5 ∧
    advanceOf 8 6 3 = 5 ∧ advanceOf 8 6 4 = 6 := by decide +kernel

theorem witness_FetchesTakeTurnsAndFillTheHoldingPlace :
    let s := { withPair 3 { livePair with sqTail := 1 } with pointer := 3 }
    unit.chosenPair = none ∧ s.chosenPair = some 3 ∧ s.pointer + ((3 : Fin 4) + 1) = 3 ∧ s.fetching = none ∧
    s.holding = none ∧ (s.pairs[(3 : PairId)]).eligible = true ∧ (s.pairs[(0 : PairId)]).eligible = false ∧
    { s with fetching := some 3 }.fetching = some 3 ∧ (s.pairs[(3 : PairId)]).serves = true ∧
    ((withPair 3 { livePair with state := .error }).pairs[(3 : PairId)]).state = .error ∧
    ((withPair 3 { livePair with deleting := some { ref := ref 0, retired := 0 } }).pairs[(3 : PairId)]).deleting =
      some { ref := ref 0, retired := 0 } := by decide +kernel

theorem witness_HostWritesEndTheirCommands :
    let c : Completion := { ref := ref 1, status := .ok, result := 0 }
    let b : BufferWrite := { ref := ref 1, result := 0, report := true }
    unit.serving = true ∧
    ((withPair 1 { livePair with writing := some c, cqTail := 7 }).pairs[(1 : PairId)]).writing = some c ∧
    ((withPair 1 { livePair with writing := some c, cqTail := 7 }).pairs[(1 : PairId)]).state = .active ∧
    ((withPair 1 { livePair with writing := some c, state := .error }).pairs[(1 : PairId)]).state = .error ∧
    { unit with buffers := [b] }.buffers[0]? = some b ∧ (unit.pairs[b.ref.pair]).state = .active ∧
    { withPair 1 { livePair with state := .error } with buffers := [b] }.buffers[0]? = some b ∧
    ((withPair 1 { livePair with state := .error }).pairs[b.ref.pair]).state ≠ .active := by decide +kernel

theorem witness_ReportsAreWrittenBeforeTheyComplete :
    let a := from_ 1 [0x05, 0, 0, 0, 0, 0, 0, 0, 7, 0]
    let e := from_ 1 [0x05, 0, 0, 0, 0, 0, 0, 0, 7, 1]
    let l := from_ 1 [0x23, 0, 0, 0, 0, 0, 0, 0, 7]
    let t := from_ 1 [0x41]
    (holds a (locked [fresh send])).heldCommand 0x05 = some a ∧ (holds e unit).heldCommand 0x05 = some e ∧
    (holds l unit).heldCommand 0x23 = some l ∧ (holds t unit).heldCommand 0x41 = some t ∧
    reservedZero a.record [(8, 9), (16, 23)] = true ∧ reservedZero e.record [(8, 9), (16, 23)] = true ∧
    reservedZero l.record [(8, 8), (16, 23)] = true ∧ reservedZero t.record [(16, 23)] = true ∧
    recordByte a.record 9 = 0 ∧ recordByte e.record 9 = 1 ∧ recordByte l.record 8 = 7 ∧
    recordByte (from_ 1 [0x05, 0, 0, 0, 0, 0, 0, 0, 7, 2]).record 9 = 2 ∧
    recordByte (from_ 1 [0x23, 0, 0, 0, 0, 0, 0, 0, 8]).record 8 = 8 ∧
    reservedZero (from_ 1 [0x41, 1]).record [(16, 23)] = false ∧ (locked []).findActive 7 = none ∧
    (locked [fresh send]).findActive 7 = some (fresh send) ∧ unit.session = none ∧
    (editing none [send] unit).session ≠ none ∧ findHandle 7 [send] = some send ∧ findHandle 7 [] = none := by
  decide +kernel

/-! ### Witnesses: events -/

theorem witness_PostedEventsAreAcceptedOrCounted :
    EventWriter.reset.state = .absent ∧ { events16 with state := .error }.state = .error ∧ events16.overflow = none ∧
    { events16 with tail := 13 }.occupancy + 2 < 16 ∧ 16 ≤ { events16 with tail := 14 }.occupancy + 2 ∧
    { events16 with overflow := some { count := 65535, time := 0, kind := .mark } }.overflow ≠ none ∧
    { events16 with tail := 15 }.tail + 1 = 16 ∧ { unit with ew := events16 }.dev ≠ .fatal ∧
    { unit with ew := events16 }.ew.queue = [] ∧ { unit with ew := events16 }.ew.stray = false ∧
    eventsBusy.queue ≠ [] ∧ { State.reset with dev := .fatal }.dev = .fatal ∧ unit.ew.queue = [] ∧
    (events16.offer 0 someEvent).queue = [{ position := 0, phase := true, event := someEvent }] := by decide +kernel

theorem witness_EventRingMovesOrFails :
    State.reset.serving = false ∧ { unit with ew := events16 }.serving = true ∧ events16.state = .active ∧
    ({ events16 with tail := 3 }.occupancy - 0 = 3 ∧ advanceOf 16 0 3 = 3 ∧ advanceOf 16 0 4 = 4) ∧
    { events16 with tail := 14, overflow := some { count := 1, time := 0, kind := .mark } }.overflow ≠ none ∧
    { events16 with tail := 14 }.tail + 1 ≠ 16 ∧ { events16 with tail := 15 }.tail + 1 = 16 ∧
    events16.stray = false ∧ { events16 with stray := true }.stray = true ∧
    eventsBusy.queue = [{ position := 0, phase := true, event := someEvent }] ∧ events16.queue = [] := by decide +kernel

/-! ### Witnesses: the device -/

theorem witness_RegisterWritesAndEnable :
    unit.enable = true ∧ State.reset.enable = false ∧ { State.reset with adminDepth := 2 }.adminValid = true ∧
    { State.reset with adminDepth := 12 }.adminValid = true ∧ { State.reset with adminDepth := 13 }.adminValid = false ∧
    { State.reset with adminDepth := 1 }.adminValid = false ∧ (3 : Nat) ≠ 4 ∧ (1 : Reg).getLsbD 0 = true ∧
    (2 : Reg).getLsbD 0 = false := by decide +kernel

theorem witness_StartBeginsTheCycle :
    let h := from_ 0 [0x70]
    (holds h planned).heldCommand 0x70 = some h ∧ h.pair = 0 ∧ reservedZero h.record [] = true ∧
    reservedZero (from_ 0 [0x70, 1]).record [] = false ∧ planned.dev = .config ∧ (locked []).dev ≠ .config ∧
    planned.validate planned.activeEntries = none ∧ unit.validate unit.activeEntries ≠ none ∧
    planned.sc.plan = some plan ∧ plan.reports = true ∧ planned.sc.sync = .off ∧ planned.pairs[(0 : PairId)].serves = true := by decide +kernel

theorem witness_StopReturnsToConfig :
    let h := from_ 0 [0x71]
    (holds h (locked [])).heldCommand 0x71 = some h ∧ reservedZero h.record [] = true ∧
    reservedZero (from_ 0 [0x71, 1]).record [] = false ∧ unit.dev = .config ∧ (locked []).dev ≠ .config ∧
    (locked []).sc.sync ≠ .off ∧ (editing (some (ref 1)) [send] (locked [])).pendingCommit = some (ref 1) ∧
    (editing (some (ref 1)) [send] (locked [])).sc.plan = some plan ∧ (locked []).pendingCommit = none ∧
    (synced fun t => { t with hold := true, resign := some (ref 2) }).sc.hold = true ∧
    (locked []).pairs[(0 : PairId)].serves = true := by decide +kernel

/-- Exchanges in flight at STOP: one whose deadline is now, one 20 STU away, one counted in clocks. -/
theorem witness_StopReturnsToConfig_deadlines :
    let s := fun d => (locked []).setLane 0 { ready with inFlight := some { exchange (.scheduled (firing fetch)) 4 with deadline := d } }
    ((s (.atLocal 5000)).lanes[(0 : LaneId)]).inFlight.map Exchange.deadline = some (.atLocal 5000) ∧
    (5000 : Count32) = (s (.atLocal 5000)).sc.localTime ∧ (5020 : Count32) ≠ (s (.atLocal 5020)).sc.localTime ∧
    ((s (.inClocks 7)).lanes[(0 : LaneId)]).inFlight.map Exchange.deadline = some (.inClocks 7) ∧
    (s (.inClocks 7)).sc.plan = some plan ∧
    (locked []).sc.convertDeadline 100 0 (.atLocal 5020) = .inClocks (60 + 19 * 100) := by decide +kernel

/-! ### Witnesses: a taken edge, whole -/

/-- The edge of `captured`, of count 2, 1000 STU after the one that opened the cycle: admitted to the trim. -/
def edgeA : Edge := { instant := { time := 4994, clocks := 40, length := 100 }, count := 2, restart := false, rank := 0, unit := 3 }

/-- The opening of the cycle that `edgeA` closes. -/
def openedA : Option Opening := some { instant := { time := 3994, clocks := 40, length := 100 }, locked := true, restart := false }

theorem witness_EdgesSwapMeasureAndReport :
    TakesEdge (.beaconReceived (beaconA 2)) (captured fun t => { t with opening := openedA }) plan false edgeA ∧
    (captured fun t => { t with opening := openedA }).measure plan edgeA true = some 0 ∧
    TakesEdge (.beaconReceived (beaconA 0)) (editing (some (ref 1)) [send] (captured fun t => { t with cycleCount := 3 }))
      plan false { edgeA with count := 0 } ∧
    TakesEdge .ownBeaconEnd (sending 610 true true id) plan true
      { edgeA with restart := true, rank := 2, unit := 9 } := by
  refine ⟨⟨rfl, rfl, ?_, .inl ⟨rfl, _, rfl, rfl, ?_⟩⟩, ?_, ⟨rfl, rfl, ?_, .inl ⟨rfl, _, rfl, rfl, ?_⟩⟩,
    ⟨rfl, rfl, ?_, .inr ⟨rfl, _, rfl, rfl, ?_⟩⟩⟩ <;> decide +kernel

/-- The conditions of the clauses of a taken edge: role, trim state, good run and give-ups where they meet. -/
theorem witness_EdgesSwapMeasureAndReport_clauses :
    (captured fun t => { t with trimState := .suspended, goodRun := 1 }).sc.goodRun + 1 < 3 ∧
    3 ≤ (captured fun t => { t with trimState := .suspended, goodRun := 2 }).sc.goodRun + 1 ∧
    deviation 16003 1000 = 188 ∧ deviation 16004 1000 = 250 ∧ ((188 : Int).natAbs : Int) ≤ plan.trimLimit ∧
    (plan.trimLimit : Int) < ((250 : Int).natAbs : Int) ∧ ((190 + (188 : Int).tdiv 4).natAbs : Int) = 237 ∧
    (captured fun t => { t with trimState := .tracking }).sc.trimState = .tracking ∧
    ((captured id).setLane 0 { ready with queue := [{ asking 7 with giveUps := 3 }, asking 7] }).fourthGiveUps = [ref 1] ∧
    (0 : Nat) < edgeA.instant.length ∧ plan.reports = true := by decide +kernel

end Sys2Proof.Tests
end

/-! PROOFS. The schedule table (chapter 1): where an insertion places an entry, what each edit command does case by case,
and the least window of R15. -/

namespace Sys2Proof.Machine

/-! ### Command steps and results -/

/-- A held command answers what its owner does in the state whose holding place is empty (R145). -/
theorem Answers.of_owner {c : Instr} {opcode : Nat} {owner : CommandRecord → CmdRef → State → State} {s u : State}
    {h : Held} {status : Status} {result : Reg} (hx : exec c s = .next (s.runCommand opcode owner))
    (hh : s.heldCommand opcode = some h) (ho : owner h.record h.ref s.taken = u.complete h.ref status result) :
    Answers c s u h status result := by
  unfold Answers
  rw [hx, State.runCommand_held hh, ho]

/-- A result of one field at bit 0 is the number itself. -/
theorem pack_at_zero (n : Nat) : pack [(n, 0)] = BitVec.ofNat 32 n := by simp [pack]

/-- The owner with no commit pending passes the session checks (R7). -/
theorem State.sessionCheck_eq_none {s : State} {pair : PairId}
    (hs : s.session = some { owner := pair, commit := none }) : s.sessionCheck pair = none := by
  simp [State.sessionCheck, State.ownerCheck, hs]

/-- The entry of an accepted record has the handle that the record names (section 11.4). -/
theorem recordEntry_handle {r : CommandRecord} {e : Entry} (he : recordEntry r = some e) :
    e.handle = recordByte r 8 := by
  simp only [recordEntry] at he
  split at he
  · split_ifs at he
    cases he
    rfl
  · cases he

/-! ### Keys and lookups in a table (R3) -/

/-- Key order is strict. -/
theorem Entry.key_ne_of_before {a b : Entry} (h : a.before b = true) : a.key ≠ b.key := by
  simp only [Entry.before, decide_eq_true_eq] at h
  simp only [Entry.key, ne_eq, Prod.mk.injEq]
  omega

/-- In a table in key order, a key belongs to one entry. -/
theorem eq_of_key_eq {table : List Entry} (h : table.Pairwise fun a b => a.before b = true) {x y : Entry}
    (hx : x ∈ table) (hy : y ∈ table) (hk : x.key = y.key) : x = y :=
  have keys : (table.map Entry.key).Nodup := List.pairwise_map.2 (h.imp Entry.key_ne_of_before)
  List.inj_on_of_nodup_map keys hx hy hk

theorem findHandle_eq_none {handle : Nat} {table : List Entry} :
    findHandle handle table = none ↔ ∀ x ∈ table, x.handle ≠ handle := by
  simp [findHandle]

/-- A handle of the table is found, at an entry with that handle. -/
theorem exists_findHandle {handle : Nat} {table : List Entry} (h : ∃ x ∈ table, x.handle = handle) :
    ∃ y, findHandle handle table = some y ∧ y.handle = handle := by
  obtain ⟨x, hx, hxh⟩ := h
  cases hf : findHandle handle table with
  | none => exact absurd hxh (findHandle_none hf x hx)
  | some y => exact ⟨y, rfl, by simpa using List.find?_some hf⟩

theorem findKey_eq_none {key : Nat × Nat × Nat × Nat} {table : List Entry} :
    findKey key table = none ↔ ∀ x ∈ table, x.key ≠ key := by
  simp [findKey]

/-- In a table in key order, looking for the key of an entry finds that entry. -/
theorem findKey_of_mem {table : List Entry} (h : table.Pairwise fun a b => a.before b = true) {x : Entry}
    {key : Nat × Nat × Nat × Nat} (hx : x ∈ table) (hk : x.key = key) : findKey key table = some x := by
  cases hf : findKey key table with
  | none => exact absurd hk (findKey_none hf x hx)
  | some y =>
    have hy : y.key = key := by simpa using List.find?_some hf
    rw [eq_of_key_eq h (List.mem_of_find?_eq_some hf) hx (hy.trans hk.symm)]

/-! ### The position of an inserted entry (R3, R8) -/

theorem positionOf_cons_of_before {e y : Entry} {ys : List Entry} (hb : y.before e = true) :
    positionOf e (y :: ys) = positionOf e ys + 1 := by
  simp [positionOf, hb]

/-- An entry that the first of an ordered table does not precede goes to the start. -/
theorem positionOf_cons_of_not_before {e y : Entry} {ys : List Entry}
    (h : (y :: ys).Pairwise fun a b => a.before b = true) (hb : ¬ y.before e = true) : positionOf e (y :: ys) = 0 := by
  have none_before : ∀ x ∈ y :: ys, ¬ x.before e = true := by
    intro x hx hxe
    rcases List.mem_cons.1 hx with rfl | hx
    · exact hb hxe
    · exact hb (Entry.before_trans (List.rel_of_pairwise_cons h hx) hxe)
  rw [positionOf, List.filter_eq_nil_iff.2 none_before, List.length_nil]

/-- An inserted entry stands at the position that counts the entries before it. -/
theorem getElem?_insertEntry_positionOf (e : Entry) {table : List Entry}
    (h : table.Pairwise fun a b => a.before b = true) : (insertEntry e table)[positionOf e table]? = some e := by
  induction table with
  | nil => rfl
  | cons y ys ih =>
    by_cases hb : y.before e = true
    · rw [positionOf_cons_of_before hb, insertEntry, if_pos hb, List.getElem?_cons_succ, ih h.of_cons]
    · rw [positionOf_cons_of_not_before h hb, insertEntry, if_neg hb, List.getElem?_cons_zero]

/-! ### EDIT BEGIN, case by case (R6) -/

section
variable {r : CommandRecord} {ref : CmdRef} {s : State}

theorem editBeginOwner_reserved (hz : reservedZero r [] = false) :
    editBeginOwner r ref s = s.complete ref .badField 0 := by
  rw [editBeginOwner, if_pos hz]

theorem editBeginOwner_open (hz : reservedZero r [] = true) (hs : s.session ≠ none) :
    editBeginOwner r ref s = s.complete ref .sessionOpen 0 := by
  simp [editBeginOwner, hz, Option.isSome_iff_ne_none.2 hs]

theorem editBeginOwner_closed (hz : reservedZero r [] = true) (hs : s.session = none) :
    editBeginOwner r ref s =
      { s with edit := s.activeEntries, session := some { owner := ref.pair, commit := none } }.complete ref .ok
        (BitVec.ofNat 32 s.active.length) := by
  simp [editBeginOwner, hz, hs, pack_at_zero]

end

/-- Settles O9, by the three cases of the owner. -/
theorem editBeginOpensTheSession : Obligations.EditBeginOpensTheSession := by
  unfold Obligations.EditBeginOpensTheSession
  intro s h hh
  refine ⟨fun hz => ?_, fun hz => ⟨fun hs => ?_, fun hs => ?_⟩⟩
  · exact .of_owner rfl hh (editBeginOwner_reserved hz)
  · exact .of_owner rfl hh (editBeginOwner_closed hz hs)
  · exact .of_owner rfl hh (editBeginOwner_open hz hs)

/-! ### ENTRY INSERT, case by case (R8) -/

section
variable {r : CommandRecord} {ref : CmdRef} {s : State} {e x : Entry}

theorem entryInsertOwner_badField (hc : s.sessionCheck ref.pair = none) (he : recordEntry r = none) :
    entryInsertOwner r ref s = s.complete ref .badField (BitVec.ofNat 32 (recordByte r 8)) := by
  simp only [entryInsertOwner, hc, he, pack_at_zero]

theorem entryInsertOwner_full (hc : s.sessionCheck ref.pair = none) (he : recordEntry r = some e)
    (hl : Config.tableCapacity ≤ s.edit.length) : entryInsertOwner r ref s = s.complete ref .tableFull 0 := by
  simp only [entryInsertOwner, hc, he, if_pos hl]

theorem entryInsertOwner_handleInUse (hc : s.sessionCheck ref.pair = none) (he : recordEntry r = some e)
    (hl : ¬ Config.tableCapacity ≤ s.edit.length) (hf : findHandle e.handle s.edit = some x) :
    entryInsertOwner r ref s = s.complete ref .handleInUse (BitVec.ofNat 32 x.handle) := by
  simp only [entryInsertOwner, hc, he, if_neg hl, hf, pack_at_zero]

theorem entryInsertOwner_duplicateKey (hc : s.sessionCheck ref.pair = none) (he : recordEntry r = some e)
    (hl : ¬ Config.tableCapacity ≤ s.edit.length) (hf : findHandle e.handle s.edit = none)
    (hk : findKey e.key s.edit = some x) :
    entryInsertOwner r ref s = s.complete ref .duplicateKey (BitVec.ofNat 32 x.handle) := by
  simp only [entryInsertOwner, hc, he, if_neg hl, hf, hk, pack_at_zero]

theorem entryInsertOwner_ok (hc : s.sessionCheck ref.pair = none) (he : recordEntry r = some e)
    (hl : ¬ Config.tableCapacity ≤ s.edit.length) (hf : findHandle e.handle s.edit = none)
    (hk : findKey e.key s.edit = none) :
    entryInsertOwner r ref s =
      { s with edit := insertEntry e s.edit }.complete ref .ok (BitVec.ofNat 32 (positionOf e s.edit)) := by
  simp only [entryInsertOwner, hc, he, if_neg hl, hf, hk, pack_at_zero]

end

/-- Settles O12: the cases of the owner, with the law of R3 for the table and the position of the inserted entry. -/
theorem entryInsertPlacesTheEntry : Obligations.EntryInsertPlacesTheEntry := by
  unfold Obligations.EntryInsertPlacesTheEntry
  intro s h hh hs law
  have hc : s.taken.sessionCheck h.ref.pair = none := State.sessionCheck_eq_none hs
  have sorted := law.2.1
  refine ⟨fun he => ?_, fun e he => ⟨fun hl => ?_, fun hl => ?_⟩⟩
  · exact .of_owner rfl hh (entryInsertOwner_badField hc he)
  · exact .of_owner rfl hh (entryInsertOwner_full hc he hl.ge)
  have room : ¬ Config.tableCapacity ≤ s.taken.edit.length := Nat.not_le.2 hl
  refine ⟨fun x hx hxe => ?_, fun hn => ⟨fun x hx hxk => ?_, fun hk => ?_⟩⟩
  · obtain ⟨y, hf, hy⟩ := exists_findHandle ⟨x, hx, hxe⟩
    rw [hxe, ← hy]
    exact .of_owner rfl hh (entryInsertOwner_handleInUse hc he room hf)
  · exact .of_owner rfl hh
      (entryInsertOwner_duplicateKey hc he room (findHandle_eq_none.2 hn) (findKey_of_mem sorted hx hxk))
  · exact ⟨insertEntry e s.edit, positionOf e s.edit, fun _ => mem_insertEntry, tableLaw_insert law hl hn hk,
      getElem?_insertEntry_positionOf e sorted,
      .of_owner rfl hh (entryInsertOwner_ok hc he room (findHandle_eq_none.2 hn) (findKey_eq_none.2 hk))⟩

/-! ### ENTRY REMOVE, case by case (R9) -/

section
variable {r : CommandRecord} {ref : CmdRef} {s : State} {x : Entry}

theorem entryRemoveOwner_reserved (hz : reservedZero r [(8, 8)] = false) :
    entryRemoveOwner r ref s = s.complete ref .badField 0 := by
  rw [entryRemoveOwner, if_pos hz]

theorem entryRemoveOwner_noEntry (hz : reservedZero r [(8, 8)] = true) (hc : s.sessionCheck ref.pair = none)
    (hf : findHandle (recordByte r 8) s.edit = none) : entryRemoveOwner r ref s = s.complete ref .noEntry 0 := by
  simp [entryRemoveOwner, hz, hc, hf]

theorem entryRemoveOwner_ok (hz : reservedZero r [(8, 8)] = true) (hc : s.sessionCheck ref.pair = none)
    (hf : findHandle (recordByte r 8) s.edit = some x) :
    entryRemoveOwner r ref s =
      { s with edit := withoutHandle (recordByte r 8) s.edit }.complete ref .ok
        (BitVec.ofNat 32 (withoutHandle (recordByte r 8) s.edit).length) := by
  simp [entryRemoveOwner, hz, hc, hf, pack_at_zero]

end

/-- Settles O13: the cases of the owner; the entries left are counted by the length of the filtered table. -/
theorem entryRemoveTakesTheEntryOut : Obligations.EntryRemoveTakesTheEntryOut := by
  unfold Obligations.EntryRemoveTakesTheEntryOut
  intro s h hh
  refine ⟨fun hz => .of_owner rfl hh (entryRemoveOwner_reserved hz), fun hz hs => ?_⟩
  have hc : s.taken.sessionCheck h.ref.pair = none := State.sessionCheck_eq_none hs
  refine ⟨fun hn => ?_, fun hx => ?_⟩
  · exact .of_owner rfl hh (entryRemoveOwner_noEntry hz hc (findHandle_eq_none.2 hn))
  · obtain ⟨y, hf, _⟩ := exists_findHandle hx
    rw [List.countP_eq_length_filter]
    exact .of_owner rfl hh (entryRemoveOwner_ok hz hc hf)

/-! ### ENTRY MODIFY, case by case (R10) -/

section
variable {r : CommandRecord} {ref : CmdRef} {s : State} {e x y : Entry}

theorem entryModifyOwner_noEntry (hc : s.sessionCheck ref.pair = none)
    (hf : findHandle (recordByte r 8) s.edit = none) : entryModifyOwner r ref s = s.complete ref .noEntry 0 := by
  simp only [entryModifyOwner, hc, hf]

theorem entryModifyOwner_badField (hc : s.sessionCheck ref.pair = none)
    (hf : findHandle (recordByte r 8) s.edit = some y) (he : recordEntry r = none) :
    entryModifyOwner r ref s = s.complete ref .badField (BitVec.ofNat 32 (recordByte r 8)) := by
  simp only [entryModifyOwner, hc, hf, he, pack_at_zero]

theorem entryModifyOwner_duplicateKey (hc : s.sessionCheck ref.pair = none)
    (hf : findHandle (recordByte r 8) s.edit = some y) (he : recordEntry r = some e)
    (hk : findKey e.key (withoutHandle e.handle s.edit) = some x) :
    entryModifyOwner r ref s = s.complete ref .duplicateKey (BitVec.ofNat 32 x.handle) := by
  simp only [entryModifyOwner, hc, hf, he, hk, pack_at_zero]

theorem entryModifyOwner_ok (hc : s.sessionCheck ref.pair = none)
    (hf : findHandle (recordByte r 8) s.edit = some y) (he : recordEntry r = some e)
    (hk : findKey e.key (withoutHandle e.handle s.edit) = none) :
    entryModifyOwner r ref s =
      { s with edit := insertEntry e (withoutHandle e.handle s.edit) }.complete ref .ok
        (BitVec.ofNat 32 (positionOf e (withoutHandle e.handle s.edit))) := by
  simp only [entryModifyOwner, hc, hf, he, hk, pack_at_zero]

end

/-- Settles O14: a modification is an insertion into the table without the old entry, which keeps the law of R3 and has
room for one. -/
theorem entryModifyReplacesTheEntry : Obligations.EntryModifyReplacesTheEntry := by
  unfold Obligations.EntryModifyReplacesTheEntry
  intro s h hh hs law
  have hc : s.taken.sessionCheck h.ref.pair = none := State.sessionCheck_eq_none hs
  refine ⟨fun hn => .of_owner rfl hh (entryModifyOwner_noEntry hc (findHandle_eq_none.2 hn)), fun hx => ?_⟩
  obtain ⟨y, hf, _⟩ := exists_findHandle hx
  refine ⟨fun he => .of_owner rfl hh (entryModifyOwner_badField hc hf he), fun e he => ?_⟩
  have others := tableLaw_without law e.handle
  refine ⟨fun x hx hxh hxk => ?_, fun hk => ?_⟩
  · exact .of_owner rfl hh (entryModifyOwner_duplicateKey hc hf he
      (findKey_of_mem others.2.1 (mem_withoutHandle.2 ⟨hx, hxh⟩) hxk))
  · have new_handle : ∀ x ∈ withoutHandle e.handle s.edit, x.handle ≠ e.handle := fun x hx => (mem_withoutHandle.1 hx).2
    have new_key : ∀ x ∈ withoutHandle e.handle s.edit, x.key ≠ e.key := fun x hx =>
      hk x (mem_withoutHandle.1 hx).1 (mem_withoutHandle.1 hx).2
    have room : (withoutHandle e.handle s.edit).length < 256 := by
      rw [← recordEntry_handle he] at hf
      exact (length_withoutHandle hf).trans_le law.1
    exact ⟨insertEntry e (withoutHandle e.handle s.edit), positionOf e (withoutHandle e.handle s.edit),
      fun x => by rw [mem_insertEntry, mem_withoutHandle], tableLaw_insert others room new_handle new_key,
      getElem?_insertEntry_positionOf e others.2.1,
      .of_owner rfl hh (entryModifyOwner_ok hc hf he (findKey_eq_none.2 new_key))⟩

/-! ### The minimum window (R15) -/

/-- The minimum window fits a window exactly when the window, in clocks, covers the exchange. -/
theorem minimumWindow_le_iff {outCount inCount stu w : Nat} {rate : LaneRate} (hs : 0 < stu) :
    minimumWindow outCount inCount rate stu ≤ w ↔ exchangeClocks outCount inCount rate ≤ w * stu := by
  rw [minimumWindow, Nat.div_le_iff_le_mul hs, Nat.add_sub_assoc hs, Nat.add_le_add_iff_right]

/-- Settles O16: the bound for every window, and the example values of R15. -/
theorem minimumWindowIsTheLeastThatCovers : Obligations.MinimumWindowIsTheLeastThatCovers := by
  unfold Obligations.MinimumWindowIsTheLeastThatCovers
  refine ⟨fun o i rate stu w hs => ?_, by decide⟩
  rw [minimumWindow_le_iff hs]
  cases rate with
  | mbit12 => rfl
  | mbit25 => rfl
  | mbit50 => rfl

end Sys2Proof.Machine

/-! PROOFS. The laws that every step keeps: tables, scores and matrix records (R3, R5, R125, R134), device state, sync
state and role (R25, R104, R112, R165), and the bounds of the event ring (R154). -/

namespace Sys2Proof.Machine

-- Here and in every later part each declaration is checked before the next, which keeps the check within its memory.
set_option Elab.async false

/-! ### What keeps the laws of the stores -/

/-- Going from `s` to `t` keeps the laws of the tables, of the scores, of the matrix records and of the event ring. -/
structure Lawful (s t : State) : Prop where
  tables  : s.tablesLaw → t.tablesLaw
  scores  : s.scoresLaw → t.scoresLaw
  records : s.recordsLaw → t.recordsLaw
  ring    : s.ew.ringLaw → t.ew.ringLaw

theorem Lawful.refl (s : State) : Lawful s s := ⟨id, id, id, id⟩

theorem Lawful.trans {s t u : State} (h : Lawful s t) (k : Lawful t u) : Lawful s u :=
  ⟨fun x => k.tables (h.tables x), fun x => k.scores (h.scores x), fun x => k.records (h.records x),
    fun x => k.ring (h.ring x)⟩

/-- What is quiet changes no table and no session, and keeps the other laws. -/
theorem Quiet.lawful {s t : State} (h : Quiet s t) : Lawful s t :=
  ⟨by unfold State.tablesLaw; rw [h.entries, h.edit, h.session]; exact id, h.scores, h.records, h.ring⟩

/-- A step that keeps the tables, the session, the closed records and the Event Writer keeps their laws. -/
theorem Lawful.of_fields {s t : State} (ha : t.active = s.active) (he : t.edit = s.edit) (hn : t.session = s.session)
    (hr : t.hm.closed = s.hm.closed) (hw : t.ew = s.ew) : Lawful s t :=
  ⟨by simp [State.tablesLaw, State.activeEntries, ha, he, hn], by simp [State.scoresLaw, ha],
    by simp [State.recordsLaw, hr], by rw [hw]; exact id⟩

/-- A step that changes only the edit table and the session keeps the laws if it keeps those of R3 and R5. -/
theorem Lawful.of_edit {s : State} (edit : List Entry) (session : Option Session)
    (h : s.tablesLaw → tableLaw edit ∧ (session = none → edit = [])) :
    Lawful s { s with edit := edit, session := session } :=
  ⟨fun hs => ⟨hs.1, h hs⟩, id, id, id⟩

/-! ### What keeps the laws of device state, sync state and role -/

/-- Going from `s` to `t` leaves device, plan and own beacon as they were, makes no unit that may not lead other than a
FOLLOWER, and carries less than a clock from STU to STU. -/
structure Steered (s t : State) : Prop where
  dev     : t.dev = s.dev
  enable  : t.enable = s.enable
  plan    : t.sc.plan = s.sc.plan
  sending : t.sc.sending = s.sc.sending
  carry   : s.sc.stuCarry < 1000000 → t.sc.stuCarry < 1000000
  role    : s.sc.role = .follower ∨ s.sc.mayLead → t.sc.role = .follower ∨ t.sc.mayLead

theorem Steered.trans {s t u : State} (h : Steered s t) (k : Steered t u) : Steered s u :=
  ⟨k.dev.trans h.dev, k.enable.trans h.enable, k.plan.trans h.plan, k.sending.trans h.sending,
    fun x => k.carry (h.carry x), fun x => k.role (h.role x)⟩

/-- Going from `s` to `t` also leaves the sync state and the cycle in hand as they were. -/
structure Steady (s t : State) : Prop extends Steered s t where
  cycle   : t.cycle = s.cycle
  sync    : t.sc.sync = s.sc.sync

theorem Steady.refl (s : State) : Steady s s := ⟨⟨rfl, rfl, rfl, rfl, id, id⟩, rfl, rfl⟩

theorem Steady.trans {s t u : State} (h : Steady s t) (k : Steady t u) : Steady s u :=
  ⟨h.toSteered.trans k.toSteered, k.cycle.trans h.cycle, k.sync.trans h.sync⟩

/-- A step that keeps the controller, the device state and the cycle in hand is steady. -/
theorem Steady.of_fields {s t : State} (hd : t.dev = s.dev) (hb : t.enable = s.enable) (hs : t.sc = s.sc)
    (hc : t.cycle = s.cycle) : Steady s t := by
  refine ⟨⟨hd, hb, ?_, ?_, ?_, ?_⟩, hc, ?_⟩ <;> rw [hs]
  · exact id
  · exact id

/-- A step of the controller that keeps plan, role, own beacon and sync state, and what is carried, is steady. -/
theorem Steady.of_sc {s t : State} (hd : t.dev = s.dev) (hb : t.enable = s.enable) (hc : t.cycle = s.cycle)
    (hy : t.sc.sync = s.sc.sync) (hp : t.sc.plan = s.sc.plan) (hr : t.sc.role = s.sc.role)
    (hn : t.sc.sending = s.sc.sending) (hk : t.sc.stuCarry = s.sc.stuCarry) : Steady s t :=
  ⟨⟨hd, hb, hp, hn, by rw [hk]; exact id, by unfold TimeSync.mayLead; rw [hr, hp]; exact id⟩, hc, hy⟩

theorem Quiet.steady {s t : State} (h : Quiet s t) : Steady s t := .of_fields h.dev h.enable h.sc h.cycle

/-- Whether a unit may lead is a matter of its plan. -/
theorem TimeSync.mayLead_congr {t u : TimeSync} (h : t.plan = u.plan) : t.mayLead ↔ u.mayLead := by
  simp [TimeSync.mayLead, h]

/-- The laws of the controller, together. -/
def State.syncLaw (s : State) : Prop := s.cycleLaw ∧ s.roleLaw

/-- What is steady keeps the laws of the controller. -/
theorem Steady.syncLaw {s t : State} (h : Steady s t) (hs : s.syncLaw) : t.syncLaw := by
  obtain ⟨⟨h1, h2, h3, h4, h5⟩, h6, h7⟩ := hs
  refine ⟨⟨?_, ?_, ?_, ?_, h.carry h5⟩, h.role h6, ?_⟩
  · rwa [h.enable, h.dev]
  · rwa [h.sync, h.dev]
  · rwa [h.plan, h.dev]
  · rwa [h.cycle, h.sync]
  · rwa [h.sending, h.sync, TimeSync.mayLead_congr h.plan]

/-- A step keeps every law. -/
structure Keeps (s t : State) : Prop where
  lawful : Lawful s t
  sync   : s.syncLaw → t.syncLaw

theorem Keeps.refl (s : State) : Keeps s s := ⟨.refl s, id⟩

theorem Keeps.trans {s t u : State} (h : Keeps s t) (k : Keeps t u) : Keeps s u :=
  ⟨h.lawful.trans k.lawful, fun x => k.sync (h.sync x)⟩

theorem Quiet.keeps {s t : State} (h : Quiet s t) : Keeps s t := ⟨h.lawful, h.steady.syncLaw⟩

/-- A step that is steady keeps every law if it keeps those of the stores. -/
theorem Steady.keeps {s t : State} (h : Steady s t) (k : Lawful s t) : Keeps s t := ⟨k, h.syncLaw⟩

/-- A command keeps every law if its owner does, where the device serves. -/
theorem State.runCommand_keeps (s : State) (op : Nat) (owner : CommandRecord → CmdRef → State → State)
    (h : ∀ r c (t : State), t.serving = true → Keeps t (owner r c t)) : Keeps s (s.runCommand op owner) := by
  unfold State.runCommand
  split
  · rename_i x hx
    have taken : Quiet s s.taken := .of_fields rfl rfl rfl rfl rfl rfl rfl rfl rfl rfl
    have serving : s.taken.serving = true := by
      unfold State.heldCommand at hx
      split at hx
      · split at hx
        · rename_i hc
          simp only [Bool.and_eq_true] at hc
          exact hc.1.1
        · cases hx
      · cases hx
    exact taken.keeps.trans (h _ _ _ serving)
  · exact .refl s

theorem adminOnly_keeps {owner : CommandRecord → CmdRef → State → State}
    (h : ∀ r c (t : State), t.serving = true → Keeps t (owner r c t)) (r : CommandRecord) (c : CmdRef) (t : State)
    (ht : t.serving = true) : Keeps t (adminOnly owner r c t) := by
  unfold adminOnly
  split
  · exact h r c t ht
  · exact (t.complete_quiet ..).keeps

/-- A serving device is not OFF. -/
theorem State.dev_of_serving {s : State} (h : s.serving = true) : s.dev ≠ .off ∧ s.dev ≠ .fatal := by
  constructor <;> intro hd <;> simp [State.serving, hd] at h

/-! ### The edit session (R5 to R13) -/

/-- The session checks pass only while a session is open (R7). -/
theorem State.session_of_check {s : State} {p : PairId} (h : s.sessionCheck p = none) : s.session ≠ none := by
  intro hs
  simp [State.sessionCheck, State.ownerCheck, hs] at h

/-- A change of the edit table under an open session that keeps the law of R3 keeps every law, as does the completion
that follows. -/
theorem Keeps.of_edit {s : State} {edit : List Entry} (hn : s.session ≠ none)
    (h : s.tablesLaw → tableLaw edit) (ref : CmdRef) (st : Status) (r : Reg) :
    Keeps s ({ s with edit := edit }.complete ref st r) := by
  refine .trans ?_ (State.complete_quiet _ ref st r).keeps
  exact Steady.keeps (.of_fields rfl rfl rfl rfl) (.of_edit edit s.session fun hs => ⟨h hs, fun k => absurd k hn⟩)

theorem editBeginOwner_keeps (r : CommandRecord) (c : CmdRef) (s : State) : Keeps s (editBeginOwner r c s) := by
  unfold editBeginOwner
  split
  · exact (s.complete_quiet ..).keeps
  · split
    · exact (s.complete_quiet ..).keeps
    · refine .trans ?_ (State.complete_quiet _ _ _ _).keeps
      exact Steady.keeps (.of_fields rfl rfl rfl rfl) (.of_edit _ _ fun hs => ⟨hs.1, nofun⟩)

theorem entryInsertOwner_keeps (r : CommandRecord) (c : CmdRef) (s : State) : Keeps s (entryInsertOwner r c s) := by
  unfold entryInsertOwner
  split
  · exact (s.complete_quiet ..).keeps
  · rename_i hc
    split
    · exact (s.complete_quiet ..).keeps
    · split
      · exact (s.complete_quiet ..).keeps
      · rename_i hl
        split
        · exact (s.complete_quiet ..).keeps
        · exact (s.complete_quiet ..).keeps
        · rename_i hh hk
          exact .of_edit (State.session_of_check hc) (fun hs => tableLaw_insert hs.2.1 (Nat.lt_of_not_le hl)
            (findHandle_none hh) (findKey_none hk)) _ _ _

theorem entryRemoveOwner_keeps (r : CommandRecord) (c : CmdRef) (s : State) : Keeps s (entryRemoveOwner r c s) := by
  unfold entryRemoveOwner
  split
  · exact (s.complete_quiet ..).keeps
  · split
    · exact (s.complete_quiet ..).keeps
    · rename_i hc
      split
      · exact (s.complete_quiet ..).keeps
      · exact .of_edit (State.session_of_check hc) (fun hs => tableLaw_without hs.2.1 _) _ _ _

theorem entryModifyOwner_keeps (r : CommandRecord) (c : CmdRef) (s : State) : Keeps s (entryModifyOwner r c s) := by
  unfold entryModifyOwner
  split
  · exact (s.complete_quiet ..).keeps
  · rename_i hc
    split
    · exact (s.complete_quiet ..).keeps
    · rename_i x hx
      split
      · exact (s.complete_quiet ..).keeps
      · rename_i e he
        dsimp only
        split
        · exact (s.complete_quiet ..).keeps
        · rename_i hk
          refine .of_edit (State.session_of_check hc) (fun hs => ?_) _ _ _
          rw [← recordEntry_handle he] at hx
          exact tableLaw_insert (tableLaw_without hs.2.1 _) ((length_withoutHandle hx).trans_le hs.2.1.1)
            (fun x hx => (mem_withoutHandle.1 hx).2) (findKey_none hk)

theorem State.cancelCommit_quiet (s : State) (c : Option CmdRef) : Quiet s (s.cancelCommit c) := by
  cases c with
  | none => exact .refl s
  | some ref => exact s.complete_quiet ..

/-- Closing the session and emptying the edit table keeps every law (R5). -/
theorem State.closeSession_keeps (s : State) : Keeps s { s with edit := [], session := none } :=
  Steady.keeps (.of_fields rfl rfl rfl rfl) (.of_edit [] none fun _ => ⟨tableLaw_nil, fun _ => rfl⟩)

theorem editDiscardOwner_keeps (r : CommandRecord) (c : CmdRef) (s : State) : Keeps s (editDiscardOwner r c s) := by
  unfold editDiscardOwner
  split
  · exact (s.complete_quiet ..).keeps
  · split
    · exact (s.complete_quiet ..).keeps
    · exact s.closeSession_keeps.trans ((State.cancelCommit_quiet _ _).trans (State.complete_quiet ..)).keeps

/-! ### The swap (R19 to R21) -/

/-- A swap is steady: it does not touch the controller. -/
theorem State.swap_steady (s : State) (ref : CmdRef) (atOnce : Bool) : Steady s (s.swap ref atOnce) := by
  refine .trans ?_ ((State.completeAll_quiet ..).trans (State.complete_quiet ..)).steady
  exact .of_fields rfl rfl rfl rfl

/-- A swap makes the edit table the active one, with old records or fresh ones, and closes the session (R19, R20). -/
theorem State.swap_lawful (s : State) (ref : CmdRef) (atOnce : Bool) : Lawful s (s.swap ref atOnce) := by
  refine .trans ?_ ((State.completeAll_quiet ..).trans (State.complete_quiet ..)).lawful
  refine ⟨fun hs => ⟨?_, tableLaw_nil, fun _ => rfl⟩, fun hs a ha => ?_, id, id⟩
  · simpa only [State.activeEntries, swap_entries] using hs.2.1
  · obtain ⟨e, _, rfl⟩ := List.mem_map.1 ha
    exact carryOver_scoreLaw _ e hs

theorem State.swapPending_steady (s : State) (atOnce : Bool) : Steady s (s.swapPending atOnce) := by
  unfold State.swapPending
  split
  · exact s.swap_steady ..
  · exact .refl s

theorem State.swapPending_lawful (s : State) (atOnce : Bool) : Lawful s (s.swapPending atOnce) := by
  unfold State.swapPending
  split
  · exact s.swap_lawful ..
  · exact .refl s

theorem editCommitOwner_keeps (r : CommandRecord) (c : CmdRef) (s : State) : Keeps s (editCommitOwner r c s) := by
  unfold editCommitOwner
  split
  · exact (s.complete_quiet ..).keeps
  · split
    · exact (s.complete_quiet ..).keeps
    · rename_i hc
      split
      · exact (s.complete_quiet ..).keeps
      · split
        · exact Steady.keeps (.of_fields rfl rfl rfl rfl) (.of_edit s.edit _ fun hs => ⟨hs.2.1, nofun⟩)
        · exact ((s.swap_steady c true).keeps (s.swap_lawful c true)).trans
            ((Work.evaluate_quiet (State.work _)).trans (Work.finish_quiet _)).keeps

end Sys2Proof.Machine

namespace Sys2Proof.Machine

set_option Elab.async false

/-! ### Entry into FATAL and pair faults (R151, R172) -/

/-- Where the sync state is OFF, no cycle is in hand and no beacon of the unit's own counts, the laws of the controller
come down to ENABLE, role and carry. -/
theorem State.syncLaw_of_off {t : State} (he : t.enable = true ↔ t.dev ≠ .off) (hr : t.dev ≠ .running)
    (hs : t.sc.sync = .off) (hc : t.cycle = none) (hk : t.sc.stuCarry < 1000000)
    (hl : t.sc.role = .follower ∨ t.sc.mayLead) (hb : ∀ b, t.sc.sending = some b → b.counts = false) : t.syncLaw :=
  ⟨⟨he, by simp [hs, hr], fun h => absurd h hr, fun h => absurd hc h, hk⟩, hl, fun b hb' hc' => by
    rw [hb b hb'] at hc'; cases hc'⟩

theorem State.dropHeld_quiet (s : State) : Quiet s s.dropHeld := by
  unfold State.dropHeld
  split
  · refine .trans ?_ (State.retire_quiet _ _ _)
    exact .of_fields rfl rfl rfl rfl rfl rfl rfl rfl rfl rfl
  · exact .refl s

theorem State.discardHeld_quiet (s : State) (p : PairId) : Quiet s (s.discardHeld p) := by
  unfold State.discardHeld
  split
  · split
    · exact s.dropHeld_quiet
    · exact .refl s
  · exact .refl s

/-- Entry into FATAL keeps the laws of the stores. -/
theorem State.enterFatal_lawful (s : State) (c : FatalCause) (f : PairFault) : Lawful s (s.enterFatal c f) :=
  s.dropHeld_quiet.lawful.trans (.of_fields rfl rfl rfl rfl rfl)

/-- Entry into FATAL while ENABLE is set keeps the laws of the controller (R172). -/
theorem State.enterFatal_syncLaw {s : State} (c : FatalCause) (f : PairFault) (he : s.enable = true)
    (hk : s.sc.stuCarry < 1000000) (hr : s.sc.role = .follower ∨ s.sc.mayLead) : (s.enterFatal c f).syncLaw := by
  have enabled : (s.enterFatal c f).enable = true := s.dropHeld_quiet.enable.trans he
  exact State.syncLaw_of_off ⟨fun _ => nofun, fun _ => enabled⟩ nofun rfl rfl hk hr nofun

/-- A device that serves has ENABLE set (R165). -/
theorem State.enable_of_serving {s : State} (h : s.cycleLaw) (hs : s.serving = true) : s.enable = true :=
  h.1.2 (State.dev_of_serving hs).1

theorem State.serving_congr {s t : State} (h : t.dev = s.dev) : t.serving = s.serving := by
  simp [State.serving, h]

/-- A fault of a pair of a serving device keeps every law (R151, R153). -/
theorem State.faultPair_keeps (s : State) (p : PairId) (cause : PairFault) (hs : s.serving = true) :
    Keeps s (s.faultPair p cause) := by
  unfold State.faultPair
  split
  · exact .refl s
  · extract_lets t
    have ht : Quiet s t :=
      (s.setPair_quiet ..).trans ((State.discardHeld_quiet ..).trans (State.postAll_quiet ..))
    split
    · refine ⟨ht.lawful.trans (t.enterFatal_lawful ..), fun h => ?_⟩
      obtain ⟨hc, hr⟩ := ht.steady.syncLaw h
      exact State.enterFatal_syncLaw _ _ (State.enable_of_serving hc ((State.serving_congr ht.dev).trans hs)) hc.2.2.2.2 hr.1
    · exact ht.keeps

theorem State.sqTailWrite_keeps (s : State) (p : PairId) (v : Reg) : Keeps s (s.sqTailWrite p v) := by
  unfold State.sqTailWrite
  split
  · rename_i hc
    split
    · exact (s.setPair_quiet ..).keeps
    · exact s.faultPair_keeps p _ (Bool.and_eq_true_iff.1 hc).1
  · exact .refl s

theorem State.cqHeadWrite_keeps (s : State) (p : PairId) (v : Reg) : Keeps s (s.cqHeadWrite p v) := by
  unfold State.cqHeadWrite
  split
  · rename_i hc
    split
    · exact (s.setPair_quiet ..).keeps
    · exact s.faultPair_keeps p _ (Bool.and_eq_true_iff.1 hc).1
  · exact .refl s

theorem State.fetchEnd_keeps (s : State) (r : DmaRead) : Keeps s (s.fetchEnd r) := by
  unfold State.fetchEnd
  split
  · rename_i p hs hp
    extract_lets t
    have ht : Quiet s t := .of_fields rfl rfl rfl rfl rfl rfl rfl rfl rfl rfl
    split
    · exact ht.keeps.trans (t.faultPair_keeps p _ hs)
    · split
      · exact Quiet.keeps (.of_fields rfl rfl rfl rfl rfl rfl rfl rfl rfl rfl)
      · exact (ht.trans (t.setPair_quiet ..)).keeps
  · exact .refl s

theorem State.cqWriteEnd_keeps (s : State) (p : PairId) (r : DmaWrite) : Keeps s (s.cqWriteEnd p r) := by
  unfold State.cqWriteEnd
  split
  · rename_i hs _
    split
    · exact (s.setPair_quiet ..).keeps
    · split
      · refine .trans ?_ (State.beginCompletion_quiet _ _ _).keeps
        split
        · exact (s.emit_quiet _).keeps
        · exact .refl s
      · exact (s.setPair_quiet ..).keeps.trans (State.faultPair_keeps _ p _ hs)
  · exact .refl s

theorem State.bufferWriteEnd_keeps (s : State) (i : Nat) (r : DmaWrite) : Keeps s (s.bufferWriteEnd i r) := by
  unfold State.bufferWriteEnd
  split
  · rename_i b hs _
    extract_lets t
    have ht : Quiet s t := .of_fields rfl rfl rfl rfl rfl rfl rfl rfl rfl rfl
    split
    · exact (ht.trans (t.complete_quiet ..)).keeps
    · exact (ht.trans (t.retire_quiet ..)).keeps.trans (State.faultPair_keeps _ _ _ hs)
  · exact .refl s

/-! ### QUEUE DELETE (R139) -/

theorem State.dropStages_quiet (s : State) (p : PairId) : Quiet s (s.dropStages p) := by
  unfold State.dropStages
  refine .trans ?_ (State.retire_quiet _ _ _)
  refine ⟨rfl, rfl, rfl, rfl, rfl, rfl, ?_, fun hs a ha => ?_, id, id, rfl⟩
  · simp [State.activeEntries, ActiveEntry.dropStage]
  · obtain ⟨b, hb, rfl⟩ := List.mem_map.1 ha
    exact hs b hb

theorem State.dropSession_keeps (s : State) (p : PairId) : Keeps s (s.dropSession p) := by
  unfold State.dropSession
  split
  · split
    · exact s.closeSession_keeps.trans (State.retire_quiet _ _ _).keeps
    · exact .refl s
  · exact .refl s

theorem State.dropLaneWork_quiet (s : State) (p : PairId) : Quiet s (s.dropLaneWork p) := by
  unfold State.dropLaneWork
  refine .trans ?_ (State.retire_quiet _ _ _)
  exact .of_fields rfl rfl rfl rfl rfl rfl rfl rfl rfl rfl

theorem State.dropResign_keeps (s : State) (p : PairId) : Keeps s (s.dropResign p) := by
  unfold State.dropResign
  refine .trans ?_ (State.retire_quiet _ _ _).keeps
  exact Steady.keeps (.of_sc rfl rfl rfl rfl rfl rfl rfl rfl) (.of_fields rfl rfl rfl rfl rfl)

theorem queueDeleteOwner_keeps (r : CommandRecord) (c : CmdRef) (s : State) : Keeps s (queueDeleteOwner r c s) := by
  unfold queueDeleteOwner
  split
  · exact (s.complete_quiet ..).keeps
  · split
    · exact (s.complete_quiet ..).keeps
    · split
      · exact (s.complete_quiet ..).keeps
      · split
        · exact (s.complete_quiet ..).keeps
        · refine .trans ?_ (State.finishDeletion_quiet _ _).keeps
          unfold State.beginDeletion
          refine .trans ?_ (State.setPair_quiet _ _ _).keeps
          refine .trans ?_ (State.dropResign_keeps _ _)
          refine .trans ?_ (State.dropLaneWork_quiet _ _).keeps
          refine .trans ?_ (State.dropSession_keeps _ _)
          refine .trans ?_ (State.dropStages_quiet _ _).keeps
          refine .trans ?_ (State.discardHeld_quiet _ _).keeps
          exact (s.setPair_quiet ..).keeps

/-! ### A mark (R28 to R35) -/

/-- A take leaves the score and the flag (R49). -/
theorem Runtime.take_score {r run : Runtime} {mode : ValueMode} {words : List StationWord}
    (h : r.take mode = some (words, run)) : run.score = r.score ∧ run.disabled = r.disabled := by
  unfold Runtime.take at h
  split at h
  · cases h; exact ⟨rfl, rfl⟩
  · split at h
    · cases h; exact ⟨rfl, rfl⟩
    · cases h

/-- Giving an entry the record of one of the table keeps the law of the scores. -/
theorem State.updateRun_const_quiet {s : State} {run : Runtime} (n : Nat) (h : s.scoresLaw → run.scoreLaw) :
    Quiet s (s.updateRun n fun _ => run) := by
  refine { Quiet.refl s with entries := ?_, scores := fun hs a ha => ?_ }
  · simp only [State.activeEntries, State.updateRun, List.map_map]
    refine List.map_congr_left fun a _ => ?_
    simp only [Function.comp]
    split <;> rfl
  · obtain ⟨b, hb, rfl⟩ := List.mem_map.1 ha
    split
    · exact h hs
    · exact hs b hb

/-- What the checks of a mark reserve and take is quiet (R31). -/
theorem State.checkMark_quiet {s t : State} {a : ActiveEntry} {words : List StationWord} (ha : a ∈ s.active)
    (h : s.checkMark a = .ok (words, t)) : Quiet s t := by
  unfold State.checkMark at h
  split at h
  · cases h
  · split at h
    · cases h
    · split at h
      · cases h
      · rename_i u hu
        have reserved : Quiet s u ∧ u.active = s.active := by
          unfold State.reserveFor at hu
          split at hu
          · split at hu
            · cases hu
              exact ⟨s.setRing_quiet .., rfl⟩
            · cases hu
          · cases hu
            exact ⟨.refl s, rfl⟩
        refine reserved.1.trans ?_
        unfold State.takeFor at h
        split at h
        · split at h
          · rename_i run hrun
            cases h
            obtain ⟨hsc, hd⟩ := Runtime.take_score hrun
            refine State.updateRun_const_quiet _ fun hs => ?_
            rw [Runtime.scoreLaw, hsc, hd]
            exact hs a (reserved.2 ▸ ha)
          · cases h
        · cases h
          exact .refl _

/-- A request sent counts one more exchange in the record of its tag, which keeps the law of R134. -/
theorem State.startExchange_quiet (s : State) (f : Firing) (e : Entry) (words : List StationWord) :
    Quiet s (s.startExchange f e words) := by
  refine { s.sendRequest_quiet e.lane (.scheduled { f with outWords := words }) e.kind words e.inCount
    (.atLocal (f.start + BitVec.ofNat 32 e.window)) with records := fun hs m hm => ?_ }
  obtain ⟨n, hn, rfl⟩ := List.mem_map.1 hm
  split
  · exact Nat.succ_ne_zero _
  · exact hs n hn

theorem State.actFor_quiet {s : State} (f : Firing) {a : ActiveEntry} (ha : a ∈ s.active) : Quiet s (s.actFor f a) := by
  unfold State.actFor
  split
  · exact (Work.settle_quiet s.work ..).trans (Work.finish_quiet _)
  · split
    · exact (Work.settle_quiet s.work ..).trans (Work.finish_quiet _)
    · rename_i hc
      exact (State.checkMark_quiet ha hc).trans (State.startExchange_quiet ..)

/-- A mark that is due belongs to an entry of the active table, in a cycle in hand while LOCKED (R25, R28). -/
theorem State.markDue_some {s : State} {c : CycleInHand} {a : ActiveEntry} (h : s.markDue = some (c, a)) :
    s.dispatching = true ∧ ∃ d, s.cycle = some d ∧ c = { d with position := nextFiring s.active d.count d.position } ∧
      s.active[c.position]? = some a ∧ a.entry.mark ≤ s.sc.cycleTime := by
  unfold State.markDue at h
  split at h
  · rename_i d hd hc
    extract_lets position at h
    split at h
    · rename_i b hb
      split at h
      · cases h
        exact ⟨hd, d, hc, rfl, hb, ‹_›⟩
      · cases h
    · cases h
  · cases h

theorem State.markReached_keeps (s : State) : Keeps s s.markReached := by
  unfold State.markReached
  split
  · exact .refl s
  · rename_i c a h
    obtain ⟨hd, d, hc, -, ha, -⟩ := State.markDue_some h
    have pass : Keeps s (s.passMark c) :=
      ⟨.of_fields rfl rfl rfl rfl rfl, fun ⟨⟨h1, h2, h3, h4, h5⟩, h6⟩ =>
        ⟨⟨h1, h2, h3, fun _ => h4 (by rw [hc]; nofun), h5⟩, h6⟩⟩
    split
    · exact pass.trans (State.actFor_quiet (s := s.passMark c) _ (List.mem_of_getElem? ha)).keeps
    · exact pass.trans (State.postAll_quiet _ _).keeps

end Sys2Proof.Machine

namespace Sys2Proof.Machine

set_option Elab.async false

/-! ### Parts of a step of the controller -/

/-- A change of sync state, with its event, which a state that stays does not post (R112). -/
theorem Work.setSync_spec (w : Work) (new : SyncState) (cause : SyncCause) :
    w.setSync new cause =
      { s := { w.s with sc := { w.s.sc with sync := new } },
        others := w.others ++ syncEvents w.s w.s.sc.cycleCount new cause.code, health := w.health } := by
  unfold Work.setSync syncEvents
  split
  · rename_i h
    rw [h, List.append_nil]
  · rfl

/-- What a LEADER that steps down posts (R104, R121). -/
theorem Work.demote_events (w : Work) (cause : RoleCause) :
    (w.demote cause).others = w.others ++ stepDown w.s w.s.sc.cycleCount cause.code ∧
      (w.demote cause).health = w.health := by
  unfold Work.demote stepDown
  by_cases hr : w.s.sc.role = .leader
  · rw [if_neg (not_not.mpr hr), if_pos hr]
    by_cases ht : w.s.sc.trimState = .frozen
    · simp [Work.setRole, Work.setTrimState, Work.on, Work.post, ht, roleEvent, trimEvent, State.event, noSubject,
        Role.code]
    · simp [Work.setRole, Work.on, Work.post, ht, roleEvent, State.event, noSubject, Role.code]
  · rw [if_pos hr, if_neg hr]
    simp

/-- A unit that may lead may be elected (R106, R107). -/
theorem Work.elect_steady (w : Work) (h : w.s.sc.mayLead) : Steady w.s w.elect.s :=
  ⟨⟨rfl, rfl, rfl, rfl, id, fun _ => .inr h⟩, rfl, rfl⟩

/-- The state of a role that ends at an edge or as the sync states are left, with the resign hold: what it hands and what
it posts (R104, R111, R121). -/
theorem Work.demote_endResign_spec (w : Work) (cause : RoleCause) (status : Status) (result : Reg) :
    let t := (w.demote cause).on fun s => if s.sc.hold then s.endResign status result else s
    (∃ (ps : Vector Pair 4) (os : List Output) (n : Nat), t.s = { w.s with
      sc := { w.s.sc with
        role := if w.s.sc.role = .leader then .backup else w.s.sc.role, trimState := trimAfterLeading w.s,
        goodRun := n, hold := false, resign := if w.s.sc.hold then none else w.s.sc.resign },
      pairs := ps, outputs := os }) ∧
    Hands w.s t.s (if w.s.sc.hold then w.s.sc.resign.toList.map fun ref => ⟨ref, status, result⟩ else []) ∧
    t.others = w.others ++ stepDown w.s w.s.sc.cycleCount cause.code ∧ t.health = w.health := by
  intro t
  obtain ⟨n, hd⟩ := w.demote_spec cause
  obtain ⟨ho, hh⟩ := w.demote_events cause
  have pairs : (w.demote cause).s.pairs = w.s.pairs := by rw [hd]
  have hold : (w.demote cause).s.sc.hold = w.s.sc.hold := by rw [hd]
  have resign : (w.demote cause).s.sc.resign = w.s.sc.resign := by rw [hd]
  obtain ⟨⟨ps, os, he⟩, hc⟩ := (w.demote cause).s.endResign_spec status result
  rw [resign] at hc
  refine ⟨?_, ?_, ho, hh⟩ <;> simp only [t, Work.on, hold] <;> split
  · exact ⟨ps, os, n, by rw [he, hd]⟩
  · rename_i hf
    refine ⟨w.s.pairs, w.s.outputs, n, ?_⟩
    rw [hd]
    simp [hf]
  · unfold Hands at hc ⊢
    rwa [pairs] at hc
  · exact .refl pairs

theorem Work.edgeRole_steady (w : Work) (own : Bool) (e : Edge) (h : own = true → w.s.sc.mayLead) :
    Steady w.s (w.edgeRole own e).s := by
  unfold Work.edgeRole
  split
  · split
    · exact w.elect_steady (h ‹_›)
    · exact .refl _
  · obtain ⟨⟨ps, os, n, hs⟩, -⟩ := w.demote_endResign_spec (if w.s.sc.hold then .resigned else .displaced) .ok
      (pack [(e.rank, 0), (e.unit, 8)])
    rw [hs]
    exact ⟨⟨rfl, rfl, rfl, rfl, id, fun hr => hr.imp (fun hf => by simp [hf]) id⟩, rfl, rfl⟩

theorem Work.edgeRole_lawful (w : Work) (own : Bool) (e : Edge) : Lawful w.s (w.edgeRole own e).s := by
  unfold Work.edgeRole
  split
  · split
    · exact .of_fields rfl rfl rfl rfl rfl
    · exact .refl _
  · obtain ⟨⟨ps, os, n, hs⟩, -⟩ := w.demote_endResign_spec (if w.s.sc.hold then .resigned else .displaced) .ok
      (pack [(e.rank, 0), (e.unit, 8)])
    rw [hs]
    exact .of_fields rfl rfl rfl rfl rfl

/-! ### The trim (R119, R120) -/

/-- A new trim leaves all but the trim, the carry and the counter of free values. -/
theorem State.setTrim_shape (s : State) (trim : Int) :
    ∃ carry n, s.setTrim trim = { s with sc := { s.sc with trim := trim, stuCarry := carry }, free := n } ∧
      (s.sc.stuCarry < 1000000 → carry < 1000000) := by
  unfold State.setTrim
  split
  · rename_i h
    exact ⟨s.sc.stuCarry, s.free, by rw [h], id⟩
  · refine ⟨_, _, rfl, fun _ => ?_⟩
    split
    · decide
    · exact Nat.mod_lt _ (by decide)

/-- Folding a measurement in leaves all but the trim, the trim state, the good-run count and the carry. -/
theorem Work.foldTrim_shape (w : Work) (p : Plan) (d : Int) :
    ∃ trim carry state run n, (w.foldTrim p d).s = { w.s with
      sc := { w.s.sc with trim := trim, stuCarry := carry, trimState := state, goodRun := run }, free := n } ∧
      (w.s.sc.stuCarry < 1000000 → carry < 1000000) := by
  unfold Work.foldTrim
  split
  · exact ⟨_, _, _, _, _, rfl, id⟩
  · dsimp only
    split
    · obtain ⟨c, n, h, hc⟩ := w.s.setTrim_shape 0
      exact ⟨0, c, .suspended, 0, n, by simp only [Work.setTrimState, Work.post, Work.on, h], hc⟩
    · obtain ⟨c, n, h, hc⟩ := w.s.setTrim_shape (w.s.sc.trim + d.tdiv 4)
      exact ⟨w.s.sc.trim + d.tdiv 4, c, w.s.sc.trimState, w.s.sc.goodRun, n, by simp only [Work.on, h], hc⟩
  · split
    · exact ⟨_, _, _, _, _, rfl, id⟩
    · split
      · exact ⟨_, _, _, _, _, rfl, id⟩
      · obtain ⟨c, n, h, hc⟩ := w.s.setTrim_shape d
        exact ⟨d, c, .tracking, 0, n, by simp only [Work.setTrimState, Work.post, Work.on, h], hc⟩

theorem Work.foldTrim_steady (w : Work) (p : Plan) (d : Int) : Steady w.s (w.foldTrim p d).s := by
  obtain ⟨trim, carry, state, run, n, h, hc⟩ := w.foldTrim_shape p d
  rw [h]
  exact ⟨⟨rfl, rfl, rfl, rfl, hc, id⟩, rfl, rfl⟩

theorem Work.foldTrim_lawful (w : Work) (p : Plan) (d : Int) : Lawful w.s (w.foldTrim p d).s := by
  obtain ⟨trim, carry, state, run, n, h, hc⟩ := w.foldTrim_shape p d
  rw [h]
  exact .of_fields rfl rfl rfl rfl rfl

/-! ### Matrix records at an edge, at STOP and at a halt (R131, R133, R134) -/

/-- What changes the Health Monitor alone and then posts the ready records keeps every law of the stores (R134). -/
theorem Work.postReady_lawful (s : State) (w : Work) (h : w.s = { s with hm := w.s.hm }) : Lawful s w.postReady.s := by
  refine ⟨fun hs => ?_, fun hs => ?_, fun _ => w.postReady_recordsLaw, fun hs => ?_⟩
  · show State.tablesLaw { w.s with hm := _ }
    rw [h]; exact hs
  · show State.scoresLaw { w.s with hm := _ }
    rw [h]; exact hs
  · show w.s.ew.ringLaw
    rw [h]; exact hs

theorem Work.edgeRecords_lawful (w : Work) (e : Edge) (follows : Bool) : Lawful w.s (w.edgeRecords e follows).s := by
  unfold Work.edgeRecords
  cases follows <;> (dsimp only; split)
  · exact .of_fields rfl rfl rfl rfl rfl
  · exact Work.postReady_lawful _ _ rfl
  · exact .refl _
  · exact Work.postReady_lawful _ _ rfl

theorem Work.edgeRecords_steady (w : Work) (e : Edge) (follows : Bool) : Steady w.s (w.edgeRecords e follows).s := by
  unfold Work.edgeRecords
  cases follows <;> (dsimp only; split) <;> exact .of_fields rfl rfl rfl rfl

theorem Work.closeMatrix_lawful (w : Work) (b : Bool) : Lawful w.s (w.closeMatrix b).s := by
  unfold Work.closeMatrix
  refine .trans ?_ (Work.evaluate_quiet _).lawful
  exact Work.postReady_lawful _ _ rfl

theorem Work.closeMatrix_steady (w : Work) (b : Bool) : Steady w.s (w.closeMatrix b).s := by
  unfold Work.closeMatrix
  refine .trans ?_ (Work.evaluate_quiet _).steady
  exact .of_fields rfl rfl rfl rfl

/-! ### A taken edge (R112, R116) -/

theorem State.takeUp_lawful (s : State) (count : Nat) : Lawful s (s.takeUp count) := by
  unfold State.takeUp
  refine .trans ?_ (State.completeAll_quiet ..).lawful
  refine .of_fields rfl rfl rfl rfl rfl

theorem State.takeUp_steered (s : State) (count : Nat) : Steered s (s.takeUp count) := by
  unfold State.takeUp
  refine .trans ?_ (State.completeAll_quiet ..).steady.toSteered
  exact ⟨rfl, rfl, rfl, rfl, id, id⟩

theorem State.takeUp_sync (s : State) (count : Nat) : (s.takeUp count).sc.sync = s.sc.sync := by
  simp [State.takeUp]

/-- A valid edge leaves the sync state other than OFF (R112). -/
theorem SyncState.afterEdge_ne_off {y : SyncState} (h : y ≠ .off) (follows : Bool) : y.afterEdge follows ≠ .off := by
  cases y <;> cases follows <;> simp_all [SyncState.afterEdge]

/-- What a step of the controller that ends in a sync state other than OFF must keep. -/
theorem Steered.syncLaw {s t : State} (h : Steered s t) (hs : s.syncLaw) (hb : s.sc.sync ≠ .off) (ht : t.sc.sync ≠ .off)
    (hc : t.cycle ≠ none → t.sc.sync = .locked) : t.syncLaw := by
  obtain ⟨⟨h1, h2, h3, -, h5⟩, h6, h7⟩ := hs
  have running : s.dev = .running := h2.1 hb
  refine ⟨⟨?_, ?_, ?_, hc, h.carry h5⟩, h.role h6, fun b hn hb => ⟨?_, ht⟩⟩
  · rwa [h.enable, h.dev]
  · simp [ht, h.dev, running]
  · rwa [h.plan, h.dev]
  · exact (TimeSync.mayLead_congr h.plan).2 (h7 b (h.sending ▸ hn) hb).1

/-- A taken edge keeps every law: another unit's, or an own one of a unit that may lead. -/
theorem Work.takeEdge_laws (w : Work) (p : Plan) (own : Bool) (e : Edge) (hs : w.s.sc.sync ≠ .off) :
    Lawful w.s (w.takeEdge p own e).s ∧
      (w.s.syncLaw → (own = true → w.s.sc.mayLead) → (w.takeEdge p own e).s.syncLaw) := by
  unfold Work.takeEdge
  extract_lets follows before after d w1 w2 w3 w4
  have timed : Steady w.s (w.s.edgeTime e (decide (after = .locked))) := .of_sc rfl rfl rfl rfl rfl rfl rfl rfl
  have after_on : after ≠ .off := SyncState.afterEdge_ne_off hs follows
  have s1 : w1.s.sc.sync = after := by rw [show w1 = _ from Work.setSync_spec _ _ _]
  have l1 : Lawful w.s w1.s := by
    rw [show w1 = _ from Work.setSync_spec _ _ _]
    have role := Work.edgeRole_lawful (w.on fun s => s.edgeTime e (decide (after = .locked))) own e
    have time : Lawful w.s (w.s.edgeTime e (decide (after = .locked))) := .of_fields rfl rfl rfl rfl rfl
    exact (time.trans role).trans (.of_fields rfl rfl rfl rfl rfl)
  have d1 : (own = true → w.s.sc.mayLead) → Steered w.s w1.s := fun ho => by
    rw [show w1 = _ from Work.setSync_spec _ _ _]
    have role := Work.edgeRole_steady (w.on fun s => s.edgeTime e (decide (after = .locked))) own e ho
    exact (timed.trans role).toSteered.trans ⟨rfl, rfl, rfl, rfl, id, id⟩
  have q2 : Steady w1.s w2.s ∧ Lawful w1.s w2.s := by
    clear_value d
    cases d with
    | none => exact ⟨.refl _, .refl _⟩
    | some d =>
      have count : Steady w1.s (w1.on fun s => { s with free := s.free + 1 }).s := .of_fields rfl rfl rfl rfl
      have count' : Lawful w1.s (w1.on fun s => { s with free := s.free + 1 }).s := .of_fields rfl rfl rfl rfl rfl
      exact ⟨count.trans (Work.foldTrim_steady _ p d), count'.trans (Work.foldTrim_lawful _ p d)⟩
  have q3 : Steady w2.s w3.s ∧ Lawful w2.s w3.s := by
    simp only [w3]
    split
    · exact ⟨w2.s.swapPending_steady false, w2.s.swapPending_lawful false⟩
    · exact ⟨.refl _, .refl _⟩
  have q4 : Steady w3.s w4.s ∧ Lawful w3.s w4.s :=
    ⟨(w3.edgeRecords_steady e follows).trans (Work.evaluate_quiet _).steady,
      (w3.edgeRecords_lawful e follows).trans (Work.evaluate_quiet _).lawful⟩
  have st : Steady w1.s w4.s := q2.1.trans (q3.1.trans q4.1)
  have lw : Lawful w.s w4.s := l1.trans (q2.2.trans (q3.2.trans q4.2))
  have sync4 : w4.s.sc.sync = after := st.sync.trans s1
  simp only [Work.on]
  split
  · rename_i hl
    refine ⟨lw.trans (w4.s.takeUp_lawful e.count), fun h ho => ?_⟩
    have hy : (w4.s.takeUp e.count).sc.sync = .locked := (w4.s.takeUp_sync e.count).trans (sync4.trans hl)
    exact (((d1 ho).trans st.toSteered).trans (w4.s.takeUp_steered e.count)).syncLaw h hs (by rw [hy]; nofun) fun _ => hy
  · refine ⟨lw.trans (.of_fields rfl rfl rfl rfl rfl), fun h ho => ?_⟩
    have stay : Steered w4.s { w4.s with cycle := none } := ⟨rfl, rfl, rfl, rfl, id, id⟩
    refine (((d1 ho).trans st.toSteered).trans stay).syncLaw h hs ?_ fun hc => absurd rfl hc
    exact fun ho => after_on (sync4.symm.trans ho)

/-! ### Watch expiry (R114) -/

theorem Work.expire_keeps (w : Work) (hc : w.s.sc.sync.hasCycle = true) : Keeps w.s w.expire.s := by
  have hu : w.s.sc.sync ≠ .unsynced ∧ w.s.sc.sync ≠ .off := by
    constructor <;> intro h <;> simp [SyncState.hasCycle, h] at hc
  obtain ⟨x, ps, os, n, hx, hs, -⟩ := w.expire_spec hu.1
  rw [hx]
  refine .trans ?_ (Work.evaluate_quiet x).keeps
  rw [hs]
  refine ⟨.of_fields rfl rfl rfl rfl rfl, fun h => ?_⟩
  refine Steered.syncLaw (s := w.s) ⟨rfl, rfl, rfl, rfl, id, fun hr => ?_⟩ h hu.2 nofun fun hc => absurd rfl hc
  exact hr.imp (fun hf => by simp [hf]) id

theorem Work.rejectBeacon_keeps (w : Work) (p : Plan) (reason : Nat) (bits : List Bool) :
    Keeps w.s (w.rejectBeacon p reason bits).s := by
  unfold Work.rejectBeacon
  extract_lets w1
  have h1 : Keeps w.s w1.s :=
    Steady.keeps (.of_sc rfl rfl rfl rfl rfl rfl rfl rfl) (.of_fields rfl rfl rfl rfl rfl)
  split
  · rename_i hc
    exact h1.trans (Work.expire_keeps w1 hc.1)
  · exact h1

/-! ### Leaving the sync states (R117, R170, R171) -/

/-- The state of the controller as it leaves the sync states, what it hands and what it posts (R104, R117, R121). -/
theorem Work.leaveSync_spec (w : Work) (cause : SyncCause) :
    (∃ (ps : Vector Pair 4) (os : List Output) (n : Nat), (w.leaveSync cause).s = { w.s with
      sc := { w.s.sc with
        sync := .off, receiving := none,
        sending := w.s.sc.sending.map fun (b : OwnBeacon) => { b with counts := false },
        role := if w.s.sc.role = .leader then .backup else w.s.sc.role, trimState := trimAfterLeading w.s,
        goodRun := n, hold := false, resign := if w.s.sc.hold then none else w.s.sc.resign },
      pairs := ps, outputs := os }) ∧
    Hands w.s (w.leaveSync cause).s
      (if w.s.sc.hold then w.s.sc.resign.toList.map fun ref => ⟨ref, .cancelled, 0⟩ else []) ∧
    (w.leaveSync cause).others =
      w.others ++ syncEvents w.s w.s.sc.cycleCount .off cause.code ++ stepDown w.s w.s.sc.cycleCount 5 ∧
    (w.leaveSync cause).health = w.health := by
  unfold Work.leaveSync
  rw [Work.setSync_spec]
  exact Work.demote_endResign_spec _ .stopped .cancelled 0

theorem Work.leaveSync_lawful (w : Work) (cause : SyncCause) : Lawful w.s (w.leaveSync cause).s := by
  obtain ⟨⟨ps, os, n, h⟩, -⟩ := w.leaveSync_spec cause
  rw [h]
  exact .of_fields rfl rfl rfl rfl rfl

end Sys2Proof.Machine

namespace Sys2Proof.Machine

set_option Elab.async false

/-! ### The sync pair (R100 to R108) -/

theorem SyncState.watches_iff (y : SyncState) : y.watches = true ↔ y ≠ .off := by simp [SyncState.watches]

/-- A change of the controller alone that keeps plan, role, own beacon, sync state and carry keeps every law. -/
theorem Keeps.of_sc {s : State} (t : TimeSync) (hy : t.sync = s.sc.sync) (hp : t.plan = s.sc.plan)
    (hr : t.role = s.sc.role) (hn : t.sending = s.sc.sending) (hk : t.stuCarry = s.sc.stuCarry) :
    Keeps s { s with sc := t } :=
  Steady.keeps (.of_sc rfl rfl rfl hy hp hr hn hk) (.of_fields rfl rfl rfl rfl rfl)

theorem State.beaconCapture_keeps (s : State) : Keeps s s.beaconCapture := by
  unfold State.beaconCapture
  split
  · exact .refl s
  · split
    · exact .of_sc _ rfl rfl rfl rfl rfl
    · exact .refl s

theorem State.beaconReceived_keeps (s : State) (bits : List Bool) : Keeps s (s.beaconReceived bits) := by
  unfold State.beaconReceived
  split
  · split
    · rename_i hc
      split
      · exact (Work.rejectBeacon_keeps s.work _ _ bits).trans (Work.finish_quiet _).keeps
      · refine .trans ?_ (Work.finish_quiet _).keeps
        obtain ⟨hl, hs⟩ := s.work.takeEdge_laws _ false _ ((SyncState.watches_iff _).1 (Bool.and_eq_true_iff.1 hc).2)
        exact ⟨hl, fun h => hs h nofun⟩
    · exact .refl s
  · exact .refl s

/-- A beacon begun by a candidate of a running device keeps every law (R100). -/
theorem State.beginBeacon_keeps (s : State) (p : Plan) (count : Nat) (restart : Bool) (hp : s.sc.plan = some p)
    (hm : s.mayBeacon p = true) : Keeps s (s.beginBeacon p count restart) := by
  simp only [State.mayBeacon, Bool.and_eq_true, decide_eq_true_eq] at hm
  obtain ⟨⟨⟨⟨hd, hc⟩, -⟩, -⟩, -⟩ := hm
  refine ⟨.of_fields rfl rfl rfl rfl rfl, fun ⟨⟨h1, h2, h3, h4, h5⟩, h6, _⟩ => ⟨⟨h1, h2, h3, h4, h5⟩, h6, ?_⟩⟩
  exact fun _ _ _ => ⟨⟨p, hp, hc⟩, h2.2 hd⟩

theorem State.leaderBeaconStart_keeps (s : State) : Keeps s s.leaderBeaconStart := by
  unfold State.leaderBeaconStart
  split
  · rename_i p hp
    split
    · rename_i hc
      simp only [State.leaderDue, Bool.and_eq_true] at hc
      exact s.beginBeacon_keeps p _ _ hp hc.1.1.1
    · exact .refl s
  · exact .refl s

theorem State.backupBeaconStart_keeps (s : State) : Keeps s s.backupBeaconStart := by
  unfold State.backupBeaconStart
  split
  · rename_i p hp
    split
    · rename_i hc
      simp only [State.backupDue, Bool.and_eq_true] at hc
      exact s.beginBeacon_keeps p _ _ hp hc.1.1.1
    · exact .refl s
  · exact .refl s

theorem State.freeRunBeaconStart_keeps (s : State) : Keeps s s.freeRunBeaconStart := by
  unfold State.freeRunBeaconStart
  split
  · rename_i p hp
    split
    · rename_i hc
      simp only [State.freeRunDue, Bool.and_eq_true] at hc
      exact s.beginBeacon_keeps p _ _ hp hc.1.1
    · exact .refl s
  · exact .refl s

/-- The unit's beacon leaves the pair. -/
theorem State.endSending_keeps (s : State) : Keeps s { s with sc := { s.sc with sending := none } } :=
  ⟨.of_fields rfl rfl rfl rfl rfl, fun ⟨h, h6, _⟩ => ⟨h, h6, nofun⟩⟩

theorem State.ownBeaconEnd_keeps (s : State) : Keeps s s.ownBeaconEnd := by
  unfold State.ownBeaconEnd
  split
  · rename_i b p _ hb _
    dsimp only
    split
    · rename_i hc
      obtain ⟨counts, watches⟩ := Bool.and_eq_true_iff.1 hc
      refine .trans ?_ (Work.finish_quiet _).keeps
      obtain ⟨hl, hs⟩ := (State.work { s with sc := { s.sc with sending := none } }).takeEdge_laws p true
        { instant := b.instant, count := b.count, restart := b.restart, rank := p.rank, unit := p.unit }
        ((SyncState.watches_iff _).1 watches)
      exact ⟨s.endSending_keeps.lawful.trans hl,
        fun h => hs (s.endSending_keeps.sync h) fun _ => (h.2.2 b hb counts).1⟩
    · exact s.endSending_keeps
  · exact .refl s

/-- Leaving the sync states, a role that is lawful stays so, and no beacon of the unit's own counts any more. -/
theorem Work.leaveSync_off (w : Work) (cause : SyncCause) :
    let t := (w.leaveSync cause).s
    t.enable = w.s.enable ∧ t.dev = w.s.dev ∧ t.cycle = w.s.cycle ∧ t.sc.sync = .off ∧
      t.sc.stuCarry = w.s.sc.stuCarry ∧
      (w.s.sc.role = .follower ∨ w.s.sc.mayLead → t.sc.role = .follower ∨ t.sc.mayLead) ∧
      ∀ b, t.sc.sending = some b → b.counts = false := by
  obtain ⟨⟨ps, os, n, h⟩, -⟩ := w.leaveSync_spec cause
  rw [h]
  refine ⟨rfl, rfl, rfl, rfl, rfl, fun hr => hr.imp (fun hf => by simp [hf]) id, fun b hb => ?_⟩
  obtain ⟨c, -, rfl⟩ := Option.map_eq_some_iff.1 hb
  rfl

/-- Entry into HALTED keeps every law (R117, R171). -/
theorem Work.halt_keeps (w : Work) (cause : HaltCause) (hs : w.s.serving = true) : Keeps w.s (w.halt cause).s := by
  unfold Work.halt
  extract_lets wasLocked u
  have halted : Lawful w.s u.s := by
    refine .trans ?_ (State.swapPending_lawful _ true)
    exact .of_fields rfl rfl rfl rfl rfl
  have steady := State.swapPending_steady { w.s with dev := .halted, haltCause := cause, cycle := none } true
  refine .trans ?_ ((Work.closeMatrix_steady _ wasLocked).keeps (Work.closeMatrix_lawful _ wasLocked))
  refine .trans ?_ (Work.flush_quiet _).keeps
  refine ⟨halted.trans (u.leaveSync_lawful .halted), fun h => ?_⟩
  obtain ⟨he, hd, hc, ho, hk, hr, hb⟩ := u.leaveSync_off .halted
  have dev : (u.leaveSync .halted).s.dev = .halted := hd.trans steady.dev
  refine State.syncLaw_of_off ?_ (by rw [dev]; nofun) ho (hc.trans steady.cycle) ?_ (hr (steady.role h.2.1)) hb
  · rw [dev, he, show u.s.enable = _ from steady.enable]
    exact ⟨fun _ => nofun, fun _ => show w.s.enable = true from State.enable_of_serving h.1 hs⟩
  · have carry : w.s.sc.stuCarry < 1000000 := h.1.2.2.2.2
    rw [hk]
    exact steady.carry carry

theorem State.clash_keeps (s : State) (p : Plan) (k : EventKind) (c : HaltCause) (n : Nat) (hs : s.serving = true) :
    Keeps s (s.clash p k c n) := by
  unfold State.clash
  exact (Work.halt_keeps (s.work.post _) c hs).trans (Work.finish_quiet _).keeps

theorem State.arbitrationLoss_keeps (s : State) (n : Nat) : Keeps s (s.arbitrationLoss n) := by
  unfold State.arbitrationLoss
  split
  · split
    · rename_i hc
      dsimp only
      split
      · exact s.endSending_keeps
      · split
        · exact s.endSending_keeps.trans (State.clash_keeps _ _ _ _ _ (Bool.and_eq_true_iff.1 hc).1)
        · exact s.endSending_keeps.trans (.of_sc _ rfl rfl rfl rfl rfl)
    · exact .refl s
  · exact .refl s

theorem State.beaconClash_keeps (s : State) (n : Nat) : Keeps s (s.beaconClash n) := by
  unfold State.beaconClash
  split
  · split
    · rename_i hc
      dsimp only
      split
      · exact s.endSending_keeps
      · exact s.endSending_keeps.trans (State.clash_keeps _ _ _ _ _ (Bool.and_eq_true_iff.1 hc).1)
    · exact .refl s
  · exact .refl s

/-! ### Cycles without an edge (R99, R113, R114) -/

theorem State.watchExpiry_keeps (s : State) : Keeps s s.watchExpiry := by
  unfold State.watchExpiry
  split
  · split
    · rename_i hc
      simp only [State.watchDue, Bool.and_eq_true] at hc
      exact (Work.expire_keeps s.work hc.1.1.2).trans (Work.finish_quiet _).keeps
    · exact .refl s
  · exact .refl s

theorem State.freeRunCycle_keeps (s : State) : Keeps s s.freeRunCycle := by
  unfold State.freeRunCycle
  split
  · split
    · dsimp only
      split
      · refine .trans ?_ (State.postAll_quiet _ _).keeps
        exact .of_sc _ rfl rfl rfl rfl rfl
      · exact .of_sc _ rfl rfl rfl rfl rfl
    · exact .refl s
  · exact .refl s

theorem State.haltedCycleRestart_keeps (s : State) : Keeps s s.haltedCycleRestart := by
  unfold State.haltedCycleRestart
  split
  · split
    · exact .of_sc _ rfl rfl rfl rfl rfl
    · exact .refl s
  · exact .refl s

theorem resignOwner_keeps (r : CommandRecord) (c : CmdRef) (s : State) : Keeps s (resignOwner r c s) := by
  unfold resignOwner
  split
  · exact (s.complete_quiet ..).keeps
  · split
    · exact (s.complete_quiet ..).keeps
    · split
      · exact (s.complete_quiet ..).keeps
      · exact .of_sc _ rfl rfl rfl rfl rfl

/-! ### CONFIG: the plan, START and STOP (R97, R169, R170) -/

/-- A unit starts as a FOLLOWER unless its plan makes it a candidate (R104). -/
theorem Plan.startRole_lawful (p : Plan) : p.startRole = .follower ∨ p.candidate = true := by
  cases h : p.candidate <;> simp [Plan.startRole, h]

/-- Outside RUNNING no cycle is in hand and no beacon of the unit's own counts. -/
theorem State.syncLaw.idle {s : State} (h : s.syncLaw) (hd : s.dev ≠ .running) :
    s.sc.sync = .off ∧ s.cycle = none ∧ ∀ b, s.sc.sending = some b → b.counts = false := by
  obtain ⟨⟨-, h2, -, h4, -⟩, -, h7⟩ := h
  have off : s.sc.sync = .off := by
    by_contra hs
    exact hd (h2.1 hs)
  refine ⟨off, ?_, fun b hb => ?_⟩
  · by_contra hc
    exact absurd ((h4 hc).symm.trans off) nofun
  · by_contra hc
    exact (h7 b hb (by simpa using hc)).2 off

theorem setPlanOwner_keeps (r : CommandRecord) (c : CmdRef) (s : State) : Keeps s (setPlanOwner r c s) := by
  unfold setPlanOwner
  split
  · exact (s.complete_quiet ..).keeps
  · rename_i hd
    split
    · exact (s.complete_quiet ..).keeps
    · rename_i p _
      refine .trans ?_ (State.complete_quiet _ _ _ _).keeps
      refine ⟨.of_fields rfl rfl rfl rfl rfl, fun h => ?_⟩
      have config : s.dev = .config := not_not.1 hd
      have stopped : s.dev ≠ .running := by rw [config]; nofun
      obtain ⟨off, idle, silent⟩ := h.idle stopped
      exact State.syncLaw_of_off h.1.1 stopped off idle h.1.2.2.2.2
        (p.startRole_lawful.imp id fun hc => ⟨p, rfl, hc⟩) silent

/-- The rest of an STU's clocks that is carried into the next one is less than a clock (R98). -/
theorem TimeSync.nextStu_carry (t : TimeSync) (stu : Nat) : (t.nextStu stu).stuCarry < 1000000 :=
  Nat.mod_lt _ (by decide)

theorem State.healthStarted_closed (s : State) : s.healthStarted.closed = s.hm.closed := by
  unfold State.healthStarted
  split <;> rfl

/-- Starting the Health Monitor keeps every law (R130, R133). -/
theorem State.beginHealth_keeps (s : State) : Keeps s { s with hm := s.healthStarted } :=
  Steady.keeps (.of_fields rfl rfl rfl rfl) (.of_fields rfl rfl rfl s.healthStarted_closed rfl)

theorem State.startDevice_keeps {s : State} {p : Plan} (hp : s.sc.plan = some p) (hd : s.dev = .config) :
    Keeps s (s.startDevice p) := by
  unfold State.startDevice
  dsimp only
  refine .trans ?_ (Work.finish_quiet _).keeps
  refine .trans ?_ (Work.evaluate_quiet _).keeps
  refine .trans ?_ (State.beginHealth_keeps _)
  refine .trans ?_ (Work.flush_quiet _).keeps
  rw [Work.setSync_spec]
  refine ⟨.of_fields rfl rfl rfl rfl rfl, fun h => ?_⟩
  have enabled : s.enable = true := h.1.1.2 (by rw [hd]; nofun)
  obtain ⟨-, idle, silent⟩ := h.idle (by rw [hd]; nofun)
  refine ⟨⟨⟨fun _ => nofun, fun _ => enabled⟩, ⟨fun _ => rfl, fun _ => nofun⟩, fun _ hn => ?_, fun hc => absurd idle hc,
    TimeSync.nextStu_carry _ _⟩, p.startRole_lawful.imp id fun hc => ⟨p, hp, hc⟩, fun b hb hc => ?_⟩
  · exact absurd (hp.symm.trans hn) nofun
  · exact absurd ((silent b hb).symm.trans hc) nofun

theorem startOwner_keeps (r : CommandRecord) (c : CmdRef) (s : State) : Keeps s (startOwner r c s) := by
  unfold startOwner
  split
  · exact (s.complete_quiet ..).keeps
  · split
    · exact (s.complete_quiet ..).keeps
    · rename_i hd
      split
      · exact (s.complete_quiet ..).keeps
      · exact .refl s
      · rename_i hp
        exact (State.startDevice_keeps hp (not_not.1 hd)).trans (State.complete_quiet ..).keeps

/-- Where the sync state is OFF, stopping the time base keeps the laws of the controller. -/
theorem State.stopTime_keeps (s : State) : Keeps s s.stopTime := by
  refine Steady.keeps ⟨⟨rfl, rfl, rfl, rfl, fun _ => ?_, id⟩, rfl, rfl⟩ (.of_fields rfl rfl rfl rfl rfl)
  exact Nat.zero_lt_succ _

/-- STOP keeps every law (R170). -/
theorem State.stopDevice_keeps (s : State) (hs : s.serving = true) : Keeps s s.stopDevice := by
  unfold State.stopDevice
  extract_lets wasLocked w w1
  have steady := State.swapPending_steady { s with dev := .config, cycle := none } true
  have lawful : Lawful s w.s := by
    refine .trans ?_ (State.swapPending_lawful _ true)
    exact .of_fields rfl rfl rfl rfl rfl
  refine .trans ?_ (Work.finish_quiet _).keeps
  refine .trans ?_ ((Work.closeMatrix_steady _ wasLocked).keeps (Work.closeMatrix_lawful _ wasLocked))
  refine .trans ?_ (State.stopTime_keeps _)
  refine .trans ?_ (Work.flush_quiet w1).keeps
  refine ⟨?_, fun h => ?_⟩
  · simp only [w1]
    split
    · exact lawful
    · exact lawful.trans (w.leaveSync_lawful .stopped)
  · have enabled : w.s.enable = true :=
      steady.enable.trans (show s.enable = true from State.enable_of_serving h.1 hs)
    have carry : w.s.sc.stuCarry < 1000000 := steady.carry (show s.sc.stuCarry < 1000000 from h.1.2.2.2.2)
    have role := steady.role h.2.1
    simp only [w1]
    split
    · rename_i off
      refine State.syncLaw_of_off ?_ (by rw [show w.s.dev = _ from steady.dev]; nofun)
        (steady.sync.trans off) steady.cycle carry role fun b hb => ?_
      · rw [show w.s.dev = _ from steady.dev]
        exact ⟨fun _ => nofun, fun _ => enabled⟩
      · by_contra hc
        exact (h.2.2 b (steady.sending.symm.trans hb) (by simpa using hc)).2 off
    · obtain ⟨he, hd, hc, ho, hk, hr, hb⟩ := w.leaveSync_off .stopped
      have dev : (w.leaveSync .stopped).s.dev = .config := hd.trans steady.dev
      refine State.syncLaw_of_off ?_ (by rw [dev]; nofun) ho (hc.trans steady.cycle) (hk ▸ carry) (hr role) hb
      rw [dev]
      exact ⟨fun _ => nofun, fun _ => he.trans enabled⟩

theorem stopOwner_keeps (r : CommandRecord) (c : CmdRef) (s : State) (hs : s.serving = true) :
    Keeps s (stopOwner r c s) := by
  unfold stopOwner
  split
  · exact (s.complete_quiet ..).keeps
  · split
    · exact (s.complete_quiet ..).keeps
    · exact (s.stopDevice_keeps hs).trans (State.complete_quiet ..).keeps

/-! ### ENABLE, the resets and the register window (R163, R166 to R168) -/

/-- At the reset values every law holds. -/
theorem State.reset_laws : State.reset.tablesLaw ∧ State.reset.scoresLaw ∧ State.reset.recordsLaw ∧
    State.reset.syncLaw ∧ State.reset.ew.ringLaw := by
  have scores : State.reset.scoresLaw := fun a ha => absurd (show a ∈ [] from ha) List.not_mem_nil
  have records : State.reset.recordsLaw := fun m hm => absurd (show m ∈ [] from hm) List.not_mem_nil
  have ring : State.reset.ew.ringLaw := fun h => absurd (show RingState.absent = .active from h) nofun
  have stopped : State.reset.dev ≠ .running := fun h => absurd (show DevState.off = .running from h) nofun
  have enabled : State.reset.enable = true ↔ State.reset.dev ≠ .off :=
    ⟨fun h => absurd (show false = true from h) nofun, fun h => absurd rfl h⟩
  have silent (b : OwnBeacon) (hb : State.reset.sc.sending = some b) : b.counts = false :=
    absurd (show none = some b from hb) nofun
  exact ⟨⟨tableLaw_nil, tableLaw_nil, fun _ => rfl⟩, scores, records,
    State.syncLaw_of_off enabled stopped rfl rfl (Nat.zero_lt_succ _) (.inl rfl) silent, ring⟩

/-- A function reset keeps every law, and so does a device reset, from every state (R167, R168). -/
theorem State.functionReset_keeps (s : State) : Keeps s s.functionReset := by
  obtain ⟨h1, h2, h3, h4, h5⟩ := State.reset_laws
  exact ⟨⟨fun _ => h1, fun _ => h2, fun _ => h3, fun _ => h5⟩, fun _ => h4⟩

theorem State.deviceReset_keeps (s : State) : Keeps s s.deviceReset := by
  obtain ⟨h1, h2, h3, h4, h5⟩ := State.reset_laws
  exact ⟨⟨fun _ => h1, fun _ => h2, fun _ => h3, fun _ => h5⟩, fun _ => h4⟩

theorem State.enableClear_keeps (s : State) : Keeps s s.enableClear := by
  unfold State.enableClear
  split
  · exact s.functionReset_keeps
  · exact .refl s

theorem State.enableSet_keeps (s : State) : Keeps s s.enableSet := by
  unfold State.enableSet
  split
  · exact .refl s
  · rename_i hn
    have off (h : s.syncLaw) : s.dev = .off := by
      by_contra hd
      exact hn (h.1.1.2 hd)
    split
    · refine ⟨.of_fields rfl rfl rfl rfl rfl, fun h => ?_⟩
      obtain ⟨stopped, idle, silent⟩ := h.idle (by rw [off h]; nofun)
      exact State.syncLaw_of_off ⟨fun _ => nofun, fun _ => rfl⟩ nofun stopped idle h.1.2.2.2.2 h.2.1 silent
    · have set : Lawful s { s with enable := true } := .of_fields rfl rfl rfl rfl rfl
      exact ⟨set.trans (State.enterFatal_lawful _ _ _), fun h => State.enterFatal_syncLaw _ _ rfl h.1.2.2.2.2 h.2.1⟩

theorem State.writeRegister_keeps (s : State) (offset : Nat) (v : Reg) : Keeps s (s.writeRegister offset v) := by
  unfold State.writeRegister
  split
  case h_1 =>
    split
    · exact s.enableSet_keeps
    · exact s.enableClear_keeps
  case h_2 => exact Quiet.keeps (.of_fields rfl rfl rfl rfl rfl rfl rfl rfl rfl rfl)
  case h_3 => exact Quiet.keeps (.of_fields rfl rfl rfl rfl rfl rfl rfl rfl rfl rfl)
  case h_4 => exact Quiet.keeps (.of_fields rfl rfl rfl rfl rfl rfl rfl rfl rfl rfl)
  case h_5 => exact s.sqTailWrite_keeps 0 v
  case h_6 => exact s.sqTailWrite_keeps 1 v
  case h_7 => exact s.sqTailWrite_keeps 2 v
  case h_8 => exact s.sqTailWrite_keeps 3 v
  case h_9 => exact s.cqHeadWrite_keeps 0 v
  case h_10 => exact s.cqHeadWrite_keeps 1 v
  case h_11 => exact s.cqHeadWrite_keeps 2 v
  case h_12 => exact s.cqHeadWrite_keeps 3 v
  case h_13 => exact (s.eqHeadWrite_quiet v).keeps
  case h_14 => exact .refl s

theorem State.registerWrite_keeps (s : State) (offset size : Nat) (v : Reg) :
    Keeps s (s.registerWrite offset size v) := by
  unfold State.registerWrite
  split
  · exact s.writeRegister_keeps offset v
  · exact .refl s

/-! ### One clock, one step -/

/-- A clock of the time base keeps plan, role, own beacon and sync state, and carries less than a clock (R98). -/
theorem State.tickTime_shape (s : State) :
    s.tickTime.plan = s.sc.plan ∧ s.tickTime.role = s.sc.role ∧ s.tickTime.sending = s.sc.sending ∧
      s.tickTime.sync = s.sc.sync ∧ (s.sc.stuCarry < 1000000 → s.tickTime.stuCarry < 1000000) := by
  unfold State.tickTime
  split
  · split
    · exact ⟨rfl, rfl, rfl, rfl, fun _ => TimeSync.nextStu_carry s.sc _⟩
    · exact ⟨rfl, rfl, rfl, rfl, id⟩
  · exact ⟨rfl, rfl, rfl, rfl, id⟩

theorem State.tick_keeps (s : State) : Keeps s s.tick := by
  unfold State.tick
  split
  · obtain ⟨hp, hr, hs, hy, hk⟩ := s.tickTime_shape
    refine ⟨.of_fields rfl rfl rfl rfl rfl, fun ⟨⟨h1, h2, h3, h4, h5⟩, h6, h7⟩ => ?_⟩
    have may : s.tickTime.mayLead ↔ s.sc.mayLead := TimeSync.mayLead_congr hp
    refine ⟨⟨h1, ?_, ?_, ?_, hk h5⟩, ?_, fun b hb hc => ?_⟩
    · exact hy ▸ h2
    · exact hp ▸ h3
    · exact hy ▸ h4
    · exact hr ▸ h6.imp id may.2
    · obtain ⟨d, hd, rfl⟩ := Option.map_eq_some_iff.1 hb
      obtain ⟨hm, ho⟩ := h7 d (hs ▸ hd) hc
      exact ⟨may.2 hm, hy ▸ ho⟩
  · exact .refl s

/-- Every command and every event has a next state, and keeps every law. -/
theorem exec_keeps (i : Instr) (s : State) : ∃ t, exec i s = .next t ∧ Keeps s t := by
  cases i with
  | editBegin => exact ⟨_, rfl, s.runCommand_keeps _ _ fun r c t _ => editBeginOwner_keeps r c t⟩
  | entryInsert => exact ⟨_, rfl, s.runCommand_keeps _ _ fun r c t _ => entryInsertOwner_keeps r c t⟩
  | entryRemove => exact ⟨_, rfl, s.runCommand_keeps _ _ fun r c t _ => entryRemoveOwner_keeps r c t⟩
  | entryModify => exact ⟨_, rfl, s.runCommand_keeps _ _ fun r c t _ => entryModifyOwner_keeps r c t⟩
  | readEntry => exact ⟨_, rfl, (s.runCommand_quiet _ _ readEntryOwner_quiet).keeps⟩
  | editCommit => exact ⟨_, rfl, s.runCommand_keeps _ _ fun r c t _ => editCommitOwner_keeps r c t⟩
  | editDiscard => exact ⟨_, rfl, s.runCommand_keeps _ _ fun r c t _ => editDiscardOwner_keeps r c t⟩
  | stageValues => exact ⟨_, rfl, (s.runCommand_quiet _ _ stageOwner_quiet).keeps⟩
  | entryClearValues => exact ⟨_, rfl, (s.runCommand_quiet _ _ clearOwner_quiet).keeps⟩
  | entryRearm => exact ⟨_, rfl, (s.runCommand_quiet _ _ rearmOwner_quiet).keeps⟩
  | laneConfigure => exact ⟨_, rfl, (s.runCommand_quiet _ _ (adminOnly_quiet _ laneConfigureOwner_quiet)).keeps⟩
  | trainLane => exact ⟨_, rfl, (s.runCommand_quiet _ _ trainOwner_quiet).keeps⟩
  | laneExchange => exact ⟨_, rfl, (s.runCommand_quiet _ _ laneExchangeOwner_quiet).keeps⟩
  | readLane => exact ⟨_, rfl, (s.runCommand_quiet _ _ readLaneOwner_quiet).keeps⟩
  | ringCreate => exact ⟨_, rfl, (s.runCommand_quiet _ _ (adminOnly_quiet _ ringCreateOwner_quiet)).keeps⟩
  | ringRelease => exact ⟨_, rfl, (s.runCommand_quiet _ _ ringReleaseOwner_quiet).keeps⟩
  | ringDelete => exact ⟨_, rfl, (s.runCommand_quiet _ _ (adminOnly_quiet _ ringDeleteOwner_quiet)).keeps⟩
  | setCyclePlan =>
    exact ⟨_, rfl, s.runCommand_keeps _ _ (adminOnly_keeps fun r c t _ => setPlanOwner_keeps r c t)⟩
  | readTime => exact ⟨_, rfl, (s.runCommand_quiet _ _ readTimeOwner_quiet).keeps⟩
  | resign => exact ⟨_, rfl, s.runCommand_keeps _ _ fun r c t _ => resignOwner_keeps r c t⟩
  | eventsOpen => exact ⟨_, rfl, (s.runCommand_quiet _ _ (adminOnly_quiet _ eventsOpenOwner_quiet)).keeps⟩
  | queueCreate => exact ⟨_, rfl, (s.runCommand_quiet _ _ (adminOnly_quiet _ queueCreateOwner_quiet)).keeps⟩
  | queueDelete =>
    exact ⟨_, rfl, s.runCommand_keeps _ _ (adminOnly_keeps fun r c t _ => queueDeleteOwner_keeps r c t)⟩
  | start => exact ⟨_, rfl, s.runCommand_keeps _ _ (adminOnly_keeps fun r c t _ => startOwner_keeps r c t)⟩
  | stop => exact ⟨_, rfl, s.runCommand_keeps _ _ (adminOnly_keeps fun r c t ht => stopOwner_keeps r c t ht)⟩
  | badOpcode => exact ⟨_, rfl, s.refuseOpcode_quiet.keeps⟩
  | enableSet => exact ⟨_, rfl, s.enableSet_keeps⟩
  | enableClear => exact ⟨_, rfl, s.enableClear_keeps⟩
  | functionLevelReset => exact ⟨_, rfl, s.functionReset_keeps⟩
  | deviceReset => exact ⟨_, rfl, s.deviceReset_keeps⟩
  | sqTailWrite p v => exact ⟨_, rfl, s.sqTailWrite_keeps p v⟩
  | cqHeadWrite p v => exact ⟨_, rfl, s.cqHeadWrite_keeps p v⟩
  | eqHeadWrite v => exact ⟨_, rfl, (s.eqHeadWrite_quiet v).keeps⟩
  | registerWrite o n v => exact ⟨_, rfl, s.registerWrite_keeps o n v⟩
  | fetchDecision => exact ⟨_, rfl, s.fetchDecision_quiet.keeps⟩
  | fetchEnd r => exact ⟨_, rfl, s.fetchEnd_keeps r⟩
  | cqWriteEnd p r => exact ⟨_, rfl, s.cqWriteEnd_keeps p r⟩
  | queueDeleteFinish p =>
    refine ⟨_, rfl, ?_⟩
    split
    · exact (s.finishDeletion_quiet p).keeps
    · exact .refl s
  | bufferWriteEnd n r => exact ⟨_, rfl, s.bufferWriteEnd_keeps n r⟩
  | markReached => exact ⟨_, rfl, s.markReached_keeps⟩
  | replyComplete l cells => exact ⟨_, rfl, (s.replyComplete_quiet l cells).keeps⟩
  | exchangeDeadline l => exact ⟨_, rfl, (s.exchangeDeadline_quiet l).keeps⟩
  | lineIdleTimeout l cells => exact ⟨_, rfl, (s.lineIdleTimeout_quiet l cells).keeps⟩
  | staleFrame l cells => exact ⟨_, rfl, (s.staleFrame_quiet l cells).keeps⟩
  | probeInterval l => exact ⟨_, rfl, (s.probeInterval_quiet l).keeps⟩
  | retrainTimerExpiry l => exact ⟨_, rfl, (s.retrainTimerExpiry_quiet l).keeps⟩
  | hostExchangeStart l => exact ⟨_, rfl, (s.hostExchangeStart_quiet l).keeps⟩
  | slotWriteStart => exact ⟨_, rfl, s.slotWriteStart_quiet.keeps⟩
  | slotWriteEnd r => exact ⟨_, rfl, (s.slotWriteEnd_quiet r).keeps⟩
  | ringDeleteFinish i => exact ⟨_, rfl, (s.ringDeleteFinish_quiet i).keeps⟩
  | beaconCapture => exact ⟨_, rfl, s.beaconCapture_keeps⟩
  | beaconReceived bits => exact ⟨_, rfl, s.beaconReceived_keeps bits⟩
  | leaderBeaconStart => exact ⟨_, rfl, s.leaderBeaconStart_keeps⟩
  | backupBeaconStart => exact ⟨_, rfl, s.backupBeaconStart_keeps⟩
  | freeRunBeaconStart => exact ⟨_, rfl, s.freeRunBeaconStart_keeps⟩
  | ownBeaconEnd => exact ⟨_, rfl, s.ownBeaconEnd_keeps⟩
  | arbitrationLoss n => exact ⟨_, rfl, s.arbitrationLoss_keeps n⟩
  | beaconClash n => exact ⟨_, rfl, s.beaconClash_keeps n⟩
  | watchExpiry => exact ⟨_, rfl, s.watchExpiry_keeps⟩
  | freeRunCycle => exact ⟨_, rfl, s.freeRunCycle_keeps⟩
  | haltedCycleRestart => exact ⟨_, rfl, s.haltedCycleRestart_keeps⟩
  | matrixReport => exact ⟨_, rfl, s.matrixReport_quiet.keeps⟩
  | eventWriteEnd r => exact ⟨_, rfl, (s.eventWriteEnd_quiet r).keeps⟩
  | laneFrameBegins l => exact ⟨_, rfl, (s.laneFrameBegins_quiet l).keeps⟩
  | cutOffReplyEnds l => exact ⟨_, rfl, (s.cutOffReplyEnds_quiet l).keeps⟩

/-- A step keeps every law: a clock with nothing waiting, else the execution of the command at the front. -/
theorem step_keeps {s t : State} (h : step s = .next t) : Keeps s t := by
  unfold step at h
  split at h
  · cases h
    exact s.tick_keeps
  · rename_i c rest _
    obtain ⟨u, hu, hk⟩ := exec_keeps c { s with pending := rest }
    rw [hu] at h
    cases h
    refine .trans ?_ hk
    exact Steady.keeps (.of_fields rfl rfl rfl rfl) (.of_fields rfl rfl rfl rfl rfl)

/-- Settles O6: each of the three laws is among those that a step keeps. -/
theorem everyStepKeepsTablesAndScores : Obligations.EveryStepKeepsTablesAndScores := by
  unfold Obligations.EveryStepKeepsTablesAndScores
  exact ⟨fun _ _ hs h => (step_keeps h).lawful.tables hs, fun _ _ hs h => (step_keeps h).lawful.scores hs,
    fun _ _ hs h => (step_keeps h).lawful.records hs⟩

/-- Settles O7: device state, sync state and role follow the law of the controller, which a step keeps. -/
theorem everyStepKeepsStatesAndRoles : Obligations.EveryStepKeepsStatesAndRoles := by
  unfold Obligations.EveryStepKeepsStatesAndRoles
  exact fun _ _ hc hr h => (step_keeps h).sync ⟨hc, hr⟩

/-- Settles O8: the law of the event ring is among those that a step keeps. -/
theorem everyStepKeepsTheEventRing : Obligations.EveryStepKeepsTheEventRing := by
  unfold Obligations.EveryStepKeepsTheEventRing
  exact fun _ _ hs h => (step_keeps h).lawful.ring hs

end Sys2Proof.Machine

/-! PROOFS. The step, the resets, completions, and the commands of the schedule table and the Value Store that no earlier
part settles. -/

namespace Sys2Proof.Machine

set_option Elab.async false

/-! ### The machine as a whole -/

/-- Settles O1: with a command at the front of the queue, a step is by definition its execution. -/
theorem stepRunsFrontCommand : Obligations.StepRunsFrontCommand := by
  unfold Obligations.StepRunsFrontCommand
  exact fun _ _ _ => rfl

/-- At the reset values only ID has a content other than zero (R163, R164). -/
theorem State.reset_readRegister (offset : Nat) :
    State.reset.readRegister offset 4 = if offset = 0 then 0x0E580001 else 0 := by
  change State.reset.readWord offset = _
  unfold State.readWord
  split
  case h_16 h0 _ _ _ _ _ _ _ _ _ _ _ _ _ _ => rw [if_neg (h0 ·)]
  all_goals decide

/-- Settles O3: every lane, pair and ring is one of a vector of equal ones, and the laws hold at the reset values. -/
theorem resetGivesEveryBlockItsValues : Obligations.ResetGivesEveryBlockItsValues := by
  unfold Obligations.ResetGivesEveryBlockItsValues
  obtain ⟨tables, scores, records, ⟨cycle, role⟩, ring⟩ := State.reset_laws
  have lanes (l : LaneId) : State.reset.lanes[l] = Lane.reset := by simp [State.reset]
  have pairs (p : PairId) : State.reset.pairs[p] = Pair.reset := by simp [State.reset]
  have rings (r : RingId) : State.reset.rings[r] = InRing.reset := by simp [State.reset]
  refine ⟨lanes, fun p => ?_, fun r => ?_, rfl, rfl, rfl, rfl, rfl, rfl, rfl, rfl, rfl, rfl, rfl, rfl, rfl, rfl, rfl, rfl,
    rfl, rfl, rfl, rfl, rfl, State.reset_readRegister, tables, scores, records, cycle, role, ring⟩
  · rw [pairs]
    exact ⟨rfl, rfl, rfl, rfl, rfl, rfl, rfl⟩
  · rw [rings]
    exact ⟨rfl, rfl, rfl, rfl, rfl, rfl⟩

/-- Settles O4: ENABLE 0 is a function reset exactly while ENABLE is set. -/
theorem resetsReturnEveryBlock : Obligations.ResetsReturnEveryBlock := by
  unfold Obligations.ResetsReturnEveryBlock
  refine fun s => ⟨rfl, rfl, fun he => ?_, fun he => ?_⟩
  · exact congrArg _ (show s.enableClear = _ from if_pos he)
  · exact congrArg _ (show s.enableClear = _ from if_neg (by rw [he]; exact Bool.false_ne_true))

/-! ### Completions (R146, R148) -/

/-- A pair with a completion handed has a write in progress once the oldest has begun. -/
theorem Pair.handing_begun_writing (q : Pair) (c : Completion) : (q.handing c).begun.writing.isSome = true := by
  unfold Pair.begun Pair.handing
  cases hw : q.writing with
  | some d => simp
  | none => cases q.handed <;> simp

/-- Beginning a write moves a completion between the two places of a pair, and changes nothing else of it. -/
theorem Pair.begun_shape (q : Pair) : q.begun = { q with writing := q.begun.writing, handed := q.begun.handed } := by
  unfold Pair.begun
  split <;> rfl

/-- A completion handed to an idle pair begins the write of the oldest one handed (R148). -/
theorem Pair.handing_begins (q : Pair) (c : Completion) :
    (q.handing c).begins = if q.writing.isSome then [] else [q.beginsWith c] := by
  unfold Pair.begins Pair.handing Pair.beginsWith
  cases hw : q.writing with
  | some d => simp
  | none => cases hh : q.handed <;> simp

/-- A pair replaced stands at its place. -/
theorem State.beginCompletion_same (s : State) (p : PairId) (q : Pair) : (s.beginCompletion p q).pairs[p] = q.begun := by
  simp [State.beginCompletion]

theorem State.beginCompletion_other (s : State) {p r : PairId} (q : Pair) (h : r ≠ p) :
    (s.beginCompletion p q).pairs[r] = s.pairs[r] := by
  simp [State.beginCompletion, h.symm, Fin.val_inj]

/-- A completion for a pair that serves is handed to that pair and to no other (R146). -/
theorem State.complete_Handed {s : State} {c : CmdRef} (hs : s.pairs[c.pair].serves = true) (status : Status)
    (result : Reg) : Handed s (s.complete c status result) ⟨c, status, result⟩ := by
  rw [State.complete_serves s c status result hs]
  have same := s.beginCompletion_same c.pair (s.pairs[c.pair].handing ⟨c, status, result⟩)
  refine ⟨fun p hp => s.beginCompletion_other _ hp, ?_, ?_, ?_, ?_, rfl⟩
  · rw [same, Pair.owed_begun, Pair.owed_handing]
  · rw [same]
    exact Pair.begun_shape _
  · rw [same]
    exact Pair.handing_begun_writing _ _
  · simp only [State.beginCompletion, Pair.handing_begins]
    split <;> rfl

/-- Settles O5: the two branches of a completion. -/
theorem completionIsHandedOnceOrRetired : Obligations.CompletionIsHandedOnceOrRetired := by
  unfold Obligations.CompletionIsHandedOnceOrRetired
  refine fun s c status result => ⟨fun hs => State.complete_Handed hs status result, fun hs => ?_⟩
  rw [State.complete_retired s c status result hs]
  have same : (s.retire c.pair 1).pairs[c.pair] = s.pairs[c.pair].retired 1 := by simp [State.retire, State.setPair]
  refine ⟨?_, ?_, fun p hp => ?_, rfl⟩
  · rw [same]
    rfl
  · rw [same]
    rfl
  · simp [State.retire, State.setPair, hp.symm, Fin.val_inj]

/-! ### The session checks (R7) -/

/-- Without a session, by another owner, or with a commit pending, the session checks refuse (R7). -/
theorem State.sessionCheck_closed {s : State} {p : PairId} (h : s.session = none) :
    s.sessionCheck p = some .noSession := by
  simp [State.sessionCheck, State.ownerCheck, h]

theorem State.sessionCheck_notOwner {s : State} {p : PairId} {x : Session} (h : s.session = some x) (ho : x.owner ≠ p) :
    s.sessionCheck p = some .notOwner := by
  simp [State.sessionCheck, State.ownerCheck, h, ho]

theorem State.sessionCheck_pending {s : State} {p : PairId} {x : Session} (h : s.session = some x) (ho : x.owner = p)
    (hc : x.commit ≠ none) : s.sessionCheck p = some .commitPending := by
  simp [State.sessionCheck, State.ownerCheck, h, ho, Option.isSome_iff_ne_none.2 hc]

/-- A command whose owner passes on what the session checks refuse answers each of them (R7). -/
theorem sessionCheck_answers {c : Instr} {opcode : Nat} {owner : CommandRecord → CmdRef → State → State} {s : State}
    {h : Held} (hx : exec c s = .next (s.runCommand opcode owner)) (hh : s.heldCommand opcode = some h)
    (ho : ∀ code, s.taken.sessionCheck h.pair = some code →
      owner h.record h.ref s.taken = s.taken.complete h.ref code 0) :
    (s.session = none → Answers c s s.taken h .noSession 0) ∧
      (∀ x, s.session = some x → x.owner ≠ h.pair → Answers c s s.taken h .notOwner 0) ∧
      (∀ x, s.session = some x → x.owner = h.pair → x.commit ≠ none → Answers c s s.taken h .commitPending 0) :=
  ⟨fun hs => .of_owner hx hh (ho _ (State.sessionCheck_closed hs)),
    fun _ hs hn => .of_owner hx hh (ho _ (State.sessionCheck_notOwner hs hn)),
    fun _ hs hp hc => .of_owner hx hh (ho _ (State.sessionCheck_pending hs hp hc))⟩

section
variable {r : CommandRecord} {ref : CmdRef} {s : State} {code : Status}

theorem entryInsertOwner_refused (hc : s.sessionCheck ref.pair = some code) :
    entryInsertOwner r ref s = s.complete ref code 0 := by
  simp only [entryInsertOwner, hc]

theorem entryRemoveOwner_refused (hz : reservedZero r [(8, 8)] = true) (hc : s.sessionCheck ref.pair = some code) :
    entryRemoveOwner r ref s = s.complete ref code 0 := by
  simp [entryRemoveOwner, hz, hc]

theorem entryModifyOwner_refused (hc : s.sessionCheck ref.pair = some code) :
    entryModifyOwner r ref s = s.complete ref code 0 := by
  simp only [entryModifyOwner, hc]

end

/-- Two states that differ in the edit table, the pairs and the outputs at most. -/
def ChangesEditAlone (s t : State) : Prop := t = { s with edit := t.edit, pairs := t.pairs, outputs := t.outputs }

/-- A completion handed with another edit table changes nothing beside. -/
theorem ChangesEditAlone.complete (s : State) (table : List Entry) (ref : CmdRef) (st : Status) (r : Reg) :
    ChangesEditAlone s ({ s with edit := table }.complete ref st r) := by
  obtain ⟨ps, os, h⟩ := State.complete_shape { s with edit := table } ref st r
  rw [h]
  rfl

theorem entryInsertOwner_changes (r : CommandRecord) (ref : CmdRef) (s : State) :
    ChangesEditAlone s (entryInsertOwner r ref s) := by
  unfold entryInsertOwner
  split
  · exact .complete s s.edit ..
  · split
    · exact .complete s s.edit ..
    · split
      · exact .complete s s.edit ..
      · split
        · exact .complete s s.edit ..
        · exact .complete s s.edit ..
        · exact .complete s _ ..

theorem entryRemoveOwner_changes (r : CommandRecord) (ref : CmdRef) (s : State) :
    ChangesEditAlone s (entryRemoveOwner r ref s) := by
  unfold entryRemoveOwner
  split
  · exact .complete s s.edit ..
  · split
    · exact .complete s s.edit ..
    · split
      · exact .complete s s.edit ..
      · exact .complete s _ ..

theorem entryModifyOwner_changes (r : CommandRecord) (ref : CmdRef) (s : State) :
    ChangesEditAlone s (entryModifyOwner r ref s) := by
  unfold entryModifyOwner
  split
  · exact .complete s s.edit ..
  · split
    · exact .complete s s.edit ..
    · split
      · exact .complete s s.edit ..
      · dsimp only
        split
        · exact .complete s s.edit ..
        · exact .complete s _ ..

/-- A held command whose owner changes the edit table alone changes nothing else but the holding place. -/
theorem runCommand_changes {c : Instr} {opcode : Nat} {owner : CommandRecord → CmdRef → State → State} {s : State}
    {h : Held} (hx : exec c s = .next (s.runCommand opcode owner)) (hh : s.heldCommand opcode = some h)
    (ho : ∀ r ref t, ChangesEditAlone t (owner r ref t)) :
    ∃ t, exec c s = .next t ∧
      t = { s with holding := none, edit := t.edit, pairs := t.pairs, outputs := t.outputs } :=
  ⟨_, hx.trans (congrArg _ (State.runCommand_held hh owner)), ho _ _ _⟩

/-- Settles O10: the three owners pass on what the session checks refuse, and change the edit table alone. -/
theorem editingNeedsTheOwnersSession : Obligations.EditingNeedsTheOwnersSession := by
  unfold Obligations.EditingNeedsTheOwnersSession
  intro s h c opcode hm hh
  simp only [List.mem_cons, Prod.mk.injEq, List.not_mem_nil, or_false] at hm
  obtain ⟨rfl, rfl⟩ | ⟨rfl, rfl⟩ | ⟨rfl, rfl⟩ := hm
  · exact ⟨runCommand_changes rfl hh entryInsertOwner_changes,
      fun _ => sessionCheck_answers rfl hh fun _ hc => entryInsertOwner_refused hc⟩
  · exact ⟨runCommand_changes rfl hh entryRemoveOwner_changes,
      fun hz => sessionCheck_answers rfl hh fun _ hc => entryRemoveOwner_refused (hz rfl) hc⟩
  · exact ⟨runCommand_changes rfl hh entryModifyOwner_changes,
      fun _ => sessionCheck_answers rfl hh fun _ hc => entryModifyOwner_refused hc⟩

/-! ### EDIT DISCARD (R12) -/

section
variable {r : CommandRecord} {ref : CmdRef} {s : State} {code : Status}

theorem editDiscardOwner_reserved (hz : reservedZero r [] = false) :
    editDiscardOwner r ref s = s.complete ref .badField 0 := by
  rw [editDiscardOwner, if_pos hz]

theorem editDiscardOwner_refused (hz : reservedZero r [] = true) (hc : s.ownerCheck ref.pair = some code) :
    editDiscardOwner r ref s = s.complete ref code 0 := by
  simp [editDiscardOwner, hz, hc]

theorem editDiscardOwner_open (hz : reservedZero r [] = true)
    (hs : s.session = some { owner := ref.pair, commit := none }) :
    editDiscardOwner r ref s =
      { s with edit := [], session := none }.complete ref .ok (BitVec.ofNat 32 s.edit.length) := by
  have hc : s.ownerCheck ref.pair = none := by simp [State.ownerCheck, hs]
  simp [editDiscardOwner, hz, hc, hs, pack_at_zero, State.cancelCommit]

theorem editDiscardOwner_pending {commit : CmdRef} (hz : reservedZero r [] = true)
    (hs : s.session = some { owner := ref.pair, commit := some commit }) :
    editDiscardOwner r ref s =
      ({ s with edit := [], session := none }.complete commit .cancelled 0).complete ref .ok
        (BitVec.ofNat 32 s.edit.length) := by
  have hc : s.ownerCheck ref.pair = none := by simp [State.ownerCheck, hs]
  simp [editDiscardOwner, hz, hc, hs, pack_at_zero, State.cancelCommit]

end

/-- Settles O15: the cases of the owner, with and without a pending commit. -/
theorem editDiscardClosesTheSession : Obligations.EditDiscardClosesTheSession := by
  unfold Obligations.EditDiscardClosesTheSession
  refine fun s h hh => ⟨fun hz => .of_owner rfl hh (editDiscardOwner_reserved hz),
    fun hz => ⟨fun hs => ?_, fun x hs hx => ?_, fun hs => ?_, fun ref hs => ?_⟩⟩
  · exact .of_owner rfl hh (editDiscardOwner_refused hz (by simp [State.ownerCheck, State.taken, hs]))
  · have hn : x.owner ≠ h.ref.pair := hx
    exact .of_owner rfl hh (editDiscardOwner_refused hz (by simp [State.ownerCheck, State.taken, hs, hn]))
  · exact .of_owner rfl hh (editDiscardOwner_open (s := s.taken) hz hs)
  · exact .of_owner rfl hh (editDiscardOwner_pending (s := s.taken) hz hs)

end Sys2Proof.Machine

namespace Sys2Proof.Machine

set_option Elab.async false

/-! ### Operand bytes and kinds -/

theorem flagByte_zero {n : Nat} (h : n = 0) : flagByte n = some false := if_pos h
theorem flagByte_one {n : Nat} (h : n = 1) : flagByte n = some true := by rw [h]; rfl

theorem flagByte_eq_none {n : Nat} : flagByte n = none ↔ 1 < n := by
  unfold flagByte
  split_ifs <;> simp <;> omega

/-- A flag byte of 0 or 1 is accepted (section 11.1). -/
theorem flagByte_some {n : Nat} (h : n ≤ 1) : ∃ b, flagByte n = some b := by
  cases hf : flagByte n with
  | some b => exact ⟨b, rfl⟩
  | none => exact absurd (flagByte_eq_none.1 hf) (Nat.not_lt.2 h)

theorem Kind.sends_iff {k : Kind} : k.sends = true ↔ k = .send ∨ k = .swap := by cases k <;> simp [Kind.sends]
theorem Kind.receives_iff {k : Kind} : k.receives = true ↔ k = .fetch ∨ k = .swap := by
  cases k <;> simp [Kind.receives]
theorem Kind.isLane_iff {k : Kind} : k.isLane = true ↔ k ≠ .marker := by cases k <;> simp [Kind.isLane]

theorem Kind.sends_eq_false {k : Kind} (h1 : k ≠ .send) (h2 : k ≠ .swap) : k.sends = false :=
  Bool.eq_false_iff.2 fun h => (Kind.sends_iff.1 h).elim h1 h2

/-! ### Runtime records of the active table -/

/-- The active entry looked up by a handle is an entry of the table with that handle. -/
theorem State.findActive_some {s : State} {n : Nat} {a : ActiveEntry} (h : s.findActive n = some a) :
    a ∈ s.active ∧ a.entry.handle = n :=
  ⟨List.mem_of_find?_eq_some h, by simpa using List.find?_some h⟩

/-- Two changes of a record that agree on the entries with the handle are one. -/
theorem State.updateRun_congr {s : State} {n : Nat} {f g : Runtime → Runtime}
    (h : ∀ b ∈ s.active, b.entry.handle = n → f b.run = g b.run) : s.updateRun n f = s.updateRun n g := by
  unfold State.updateRun
  refine congrArg (fun l => { s with active := l }) (List.map_congr_left fun b hb => ?_)
  split
  · rename_i hn
    rw [h b hb hn]
  · rfl

/-- A change of the record of a handle that only `a` has may use what the record of `a` holds. -/
theorem State.updateRun_at {s : State} {n : Nat} {a : ActiveEntry} (ha : s.findActive n = some a)
    (only : ∀ b ∈ s.active, b.entry.handle = a.entry.handle → b = a) {f g : Runtime → Runtime} (h : f a.run = g a.run) :
    s.updateRun n f = s.updateRun n g := by
  refine State.updateRun_congr fun b hb hn => ?_
  rw [only b hb (hn.trans (State.findActive_some ha).2.symm), h]

/-! ### STAGE VALUES, case by case (R45 to R47) -/

section
variable {r : CommandRecord} {ref : CmdRef} {s : State} {a : ActiveEntry} {confirm : Bool}

theorem stageOwner_badFlag (hf : flagByte (recordByte r 10) = none) :
    stageOwner r ref s = s.complete ref .badField 0 := by
  simp only [stageOwner, hf]

theorem stageOwner_badField (hf : flagByte (recordByte r 10) = some confirm)
    (hc : recordByte r 9 < 1 ∨ 16 < recordByte r 9 ∨ reservedZero r ([(8, 10)] ++ wordBytes (recordByte r 9)) = false) :
    stageOwner r ref s = s.complete ref .badField 0 := by
  simp only [stageOwner, hf, if_pos hc]

variable (hf : flagByte (recordByte r 10) = some confirm)
  (hc : ¬ (recordByte r 9 < 1 ∨ 16 < recordByte r 9 ∨
    reservedZero r ([(8, 10)] ++ wordBytes (recordByte r 9)) = false))
include hf hc

theorem stageOwner_noEntry (ha : s.findActive (recordByte r 8) = none) :
    stageOwner r ref s = s.complete ref .noEntry 0 := by
  simp only [stageOwner, hf, if_neg hc, ha]

variable (ha : s.findActive (recordByte r 8) = some a)
include ha

theorem stageOwner_wrongKind (hk : a.entry.kind.sends = false) : stageOwner r ref s = s.complete ref .wrongKind 0 := by
  simp only [stageOwner, hf, if_neg hc, ha, if_pos hk]

theorem stageOwner_countMismatch (hk : ¬ a.entry.kind.sends = false) (hn : recordByte r 9 ≠ a.entry.outCount) :
    stageOwner r ref s = s.complete ref .countMismatch 0 := by
  simp only [stageOwner, hf, if_neg hc, ha, if_neg hk, if_pos hn]

theorem stageOwner_accepted (hk : ¬ a.entry.kind.sends = false) (hn : ¬ recordByte r 9 ≠ a.entry.outCount) :
    stageOwner r ref s =
      let t := (s.updateRun (recordByte r 8) fun x =>
        x.staged (recordWords r (recordByte r 9)) (if confirm then some ref else none)).supersede (a.run.superseded confirm)
      if confirm then t
      else t.complete ref .ok (pack [(bit a.run.waiting.isSome, 0), (bit (a.run.superseded false).isSome, 1)]) := by
  simp only [stageOwner, hf, if_neg hc, ha, if_neg hk, if_neg hn]

end

/-- The two flags of the OK of STAGE VALUES (section 11.2). -/
theorem pack_two_flags (a b : Bool) :
    pack [(bit a, 0), (bit b, 1)] = BitVec.ofNat 32 ((if a then 1 else 0) + if b then 2 else 0) := by
  cases a <;> cases b <;> rfl

/-- The staged record without confirm: the set waits, and an ON_WIRE deferred STAGE stays (R46). -/
theorem Runtime.staged_plain (x : Runtime) (words : List StationWord) :
    x.staged words none = { x with waiting := some words, stage := x.stage.filter fun d => d.onWire } := rfl

/-- Settles O22: the refusals in order; then the three places where a deferred STAGE may stand, without and with
confirm. -/
theorem stageValuesFillsThePendingSlot : Obligations.StageValuesFillsThePendingSlot := by
  unfold Obligations.StageValuesFillsThePendingSlot
  refine ⟨fun s h hh => ⟨fun hbad => ?_, fun h1 h16 hflag hz => ?_⟩, ?_⟩
  · cases hf : flagByte (recordByte h.record 10) with
    | none => exact .of_owner rfl hh (stageOwner_badFlag hf)
    | some confirm =>
      have flag : ¬ 1 < recordByte h.record 10 := fun hn => by simp [flagByte_eq_none.2 hn] at hf
      refine .of_owner rfl hh (stageOwner_badField hf ?_)
      obtain h0 | h16 | hn | hz := hbad
      · exact .inl (by omega)
      · exact .inr (.inl h16)
      · exact absurd hn flag
      · exact .inr (.inr hz)
  · obtain ⟨confirm, hf⟩ := flagByte_some hflag
    have hc : ¬ (recordByte h.record 9 < 1 ∨ 16 < recordByte h.record 9 ∨
        reservedZero h.record ([(8, 10)] ++ wordBytes (recordByte h.record 9)) = false) := by
      rw [hz]
      simp only [Bool.true_eq_false, or_false]
      omega
    refine ⟨fun ha => .of_owner rfl hh (stageOwner_noEntry hf hc ha), fun a ha => ⟨fun k1 k2 => ?_, fun hk hn => ?_⟩⟩
    · exact .of_owner rfl hh (stageOwner_wrongKind hf hc ha (Kind.sends_eq_false k1 k2))
    · exact .of_owner rfl hh (stageOwner_countMismatch hf hc ha (by simp [Kind.sends_iff.2 hk]) hn)
  · intro s h a hh ha hk hn h1 h16 hz words staged replaced only
    have hc : ¬ (recordByte h.record 9 < 1 ∨ 16 < recordByte h.record 9 ∨
        reservedZero h.record ([(8, 10)] ++ wordBytes (recordByte h.record 9)) = false) := by
      rw [hz]
      simp only [Bool.true_eq_false, or_false]
      omega
    have sends : ¬ a.entry.kind.sends = false := by simp [Kind.sends_iff.2 hk]
    have words_eq : recordWords h.record (recordByte h.record 9) = words := by rw [hn]; rfl
    have slot (confirm : Option CmdRef) (d : Option DeferredStage) (hd : (a.run.staged words confirm).stage = d) :
        (s.taken.updateRun (recordByte h.record 8) fun x => x.staged words confirm) = staged d :=
      State.updateRun_at (s := s.taken) ha only (by rw [← hd]; rfl)
    refine ⟨fun h0 => ?_, fun h1 => ?_⟩
    · have accepted := stageOwner_accepted (ref := h.ref) (s := s.taken) (flagByte_zero h0) hc ha sends (not_not.2 hn)
      rw [words_eq] at accepted
      refine ⟨fun hs => ?_, fun ref hs => ?_, fun ref hs => ?_⟩
      · refine .of_owner rfl hh (accepted.trans ?_)
        rw [pack_two_flags]
        simp only [Bool.false_eq_true, if_false, slot none none (by simp [Runtime.staged, hs])]
        simp [Runtime.superseded, hs, State.supersede, replaced, Option.filter]
      · refine .of_owner rfl hh (accepted.trans ?_)
        rw [pack_two_flags]
        simp only [Bool.false_eq_true, if_false, slot none (some ⟨ref, true⟩) (by simp [Runtime.staged, hs])]
        simp [Runtime.superseded, hs, State.supersede, replaced, Option.filter]
      · refine .of_owner rfl hh (accepted.trans ?_)
        rw [pack_two_flags]
        simp only [Bool.false_eq_true, if_false, slot none none (by simp [Runtime.staged, hs])]
        simp [Runtime.superseded, hs, State.supersede, replaced, Option.filter]
    · have accepted := stageOwner_accepted (ref := h.ref) (s := s.taken) (flagByte_one h1) hc ha sends (not_not.2 hn)
      rw [words_eq] at accepted
      have run : exec .stageValues s = .next (stageOwner h.record h.ref s.taken) :=
        congrArg _ (State.runCommand_held hh stageOwner)
      simp only [if_true, slot (some h.ref) (some ⟨h.ref, false⟩) rfl] at accepted
      rw [run, accepted]
      refine ⟨fun hs => ?_, fun d hs => ?_⟩
      · simp [Runtime.superseded, hs, State.supersede, Option.filter]
      · simp [Runtime.superseded, hs, State.supersede, Option.filter]

/-! ### ENTRY CLEAR VALUES (R53) -/

section
variable {r : CommandRecord} {ref : CmdRef} {s : State} {a : ActiveEntry}

theorem clearOwner_reserved (hz : reservedZero r [(8, 8)] = false) : clearOwner r ref s = s.complete ref .badField 0 := by
  rw [clearOwner, if_pos hz]

variable (hz : reservedZero r [(8, 8)] = true)
include hz

theorem clearOwner_noEntry (ha : s.findActive (recordByte r 8) = none) :
    clearOwner r ref s = s.complete ref .noEntry 0 := by
  simp [clearOwner, hz, ha]

theorem clearOwner_wrongKind (ha : s.findActive (recordByte r 8) = some a) (hk : a.entry.kind.sends = false) :
    clearOwner r ref s = s.complete ref .wrongKind 0 := by
  simp [clearOwner, hz, ha, hk]

theorem clearOwner_accepted (ha : s.findActive (recordByte r 8) = some a) (hk : a.entry.kind.sends = true) :
    clearOwner r ref s =
      ((s.updateRun (recordByte r 8) fun x =>
          { score := x.score, disabled := x.disabled, waiting := none, current := none, stage := none }).cancelStage
          a.run.stage).complete ref .ok
        (BitVec.ofNat 32 ((if a.run.waiting.isSome then 1 else 0) + (if a.run.current.isSome then 2 else 0) +
          if a.run.stage.isSome then 4 else 0)) := by
  have flags (x y z : Bool) : pack [(bit x, 0), (bit y, 1), (bit z, 2)] =
      BitVec.ofNat 32 ((if x then 1 else 0) + (if y then 2 else 0) + if z then 4 else 0) := by
    cases x <;> cases y <;> cases z <;> rfl
  simp [clearOwner, hz, ha, hk, flags]

end

/-- Settles O23: the cases of the owner, with and without a deferred STAGE. -/
theorem clearValuesEmptiesBothSlots : Obligations.ClearValuesEmptiesBothSlots := by
  unfold Obligations.ClearValuesEmptiesBothSlots
  refine fun s h hh => ⟨fun hz => .of_owner rfl hh (clearOwner_reserved hz),
    fun hz => ⟨fun ha => .of_owner rfl hh (clearOwner_noEntry hz ha), fun a ha => ⟨fun k1 k2 => ?_, fun hk => ?_⟩⟩⟩
  · exact .of_owner rfl hh (clearOwner_wrongKind hz ha (Kind.sends_eq_false k1 k2))
  · have accepted := clearOwner_accepted (ref := h.ref) (s := s.taken) hz ha (Kind.sends_iff.2 hk)
    refine ⟨fun hd => ?_, fun d hd => ?_⟩
    · rw [hd] at accepted
      exact .of_owner rfl hh accepted
    · rw [hd] at accepted
      exact .of_owner rfl hh accepted

/-! ### The take and its outcome (R48 to R52) -/

/-- The Value Store's part of an outcome whose firing reaches the one record of its handle (R48, R52). -/
theorem State.settleValues_at {s : State} {f : Firing} {a : ActiveEntry} {o : Verdict} (hf : f.attached = true)
    (ha : s.findActive f.handle = some a) (only : ∀ b ∈ s.active, b.entry.handle = a.entry.handle → b = a) :
    s.settleValues f o =
      let t := s.updateRun f.handle fun x =>
        { x with
          current := if a.entry.mode = .oneShot then none else x.current, stage := a.run.stage.filter fun d => !d.onWire }
      a.run.stage.elim t fun d => if d.onWire then t.completeStage d f o else t := by
  have slots : (s.updateRun f.handle fun x => x.settled a.entry.mode) = s.updateRun f.handle fun x =>
      { x with
        current := if a.entry.mode = .oneShot then none else x.current, stage := a.run.stage.filter fun d => !d.onWire } :=
    State.updateRun_at ha only rfl
  simp only [State.settleValues, hf, if_true, ha, slots]
  cases a.run.stage <;> rfl

/-- Settles O24: the cases of a take, and of the deferred STAGE when the outcome is settled. -/
theorem takenSetsAndTheirOutcome : Obligations.TakenSetsAndTheirOutcome := by
  unfold Obligations.TakenSetsAndTheirOutcome
  refine ⟨fun r mode => ⟨fun v hw => by simp [Runtime.take, hw], fun hw hm v hc => by simp [Runtime.take, hw, hm, hc],
    fun hw hn => ?_⟩, fun s f o => ⟨fun hf => by simp [State.settleValues, hf], ?_⟩⟩
  · unfold Runtime.take
    rw [hw]
    obtain hm | hc := hn
    · cases mode with
      | hold => exact absurd rfl hm
      | none => rfl
      | oneShot => rfl
    · cases mode <;> simp [hc]
  · intro hf a ha after only
    have settled := State.settleValues_at (o := o) hf ha only
    have result : pack [(o.code, 0), (f.cycle, 8)] = BitVec.ofNat 32 (o.code + 256 * f.cycle) := by
      simp [pack, Nat.mul_comm]
    refine ⟨fun hs => ?_, fun ref hs => ?_, fun ref hs => ?_⟩
    · rw [hs] at settled
      exact settled
    · rw [hs] at settled
      exact settled
    · rw [hs] at settled
      rw [settled, ← result]
      rfl

end Sys2Proof.Machine

namespace Sys2Proof.Machine

set_option Elab.async false

/-! ### The entry record (R2, R173, section 11.4) -/

theorem recordByte_lt (r : CommandRecord) (i : Nat) : recordByte r i < 256 := (r.extractLsb' (8 * i) 8).isLt

/-- A two-byte field is its two bytes, least significant first (chapter 11). -/
theorem recordField16_eq (r : CommandRecord) (i : Nat) :
    recordField16 r i = recordByte r i + 256 * recordByte r (i + 1) := by
  simp only [recordField16, recordByte, BitVec.extractLsb'_toNat, Nat.shiftRight_eq_div_pow]
  rw [show 8 * (i + 1) = 8 * i + 8 by ring, Nat.pow_add, ← Nat.div_div_eq_div_mul]
  omega

/-- The must-be-zero bytes: all but opcode, tag and the parameter bytes named (R173). -/
theorem reservedZero_iff {r : CommandRecord} {named : List (Nat × Nat)} :
    reservedZero r named = true ↔
      ∀ i < 64, i ≠ 0 → i ≠ 2 → i ≠ 3 → (∀ f ∈ named, ¬ (f.1 ≤ i ∧ i ≤ f.2)) → recordByte r i = 0 := by
  simp only [reservedZero, List.all_eq_true, List.mem_range, Bool.or_eq_true, decide_eq_true_eq, List.any_eq_true]
  refine forall₂_congr fun i _ => ⟨fun h h0 h2 h3 hn => ?_, fun h => ?_⟩
  · obtain (h | ⟨f, hf, hi⟩) | h := h
    · omega
    · exact absurd hi (hn f hf)
    · exact h
  · by_cases h0 : i = 0 ∨ i = 2 ∨ i = 3
    · exact .inl (.inl h0)
    · by_cases hn : ∃ f ∈ named, f.1 ≤ i ∧ i ≤ f.2
      · exact .inl (.inr hn)
      · exact .inr (h (by tauto) (by tauto) (by tauto) fun f hf hi => hn ⟨f, hf, hi⟩)

/-- The must-be-zero bytes of a command with an entry record (section 11.4). -/
theorem reservedZero_entry_iff {r : CommandRecord} :
    reservedZero r [(8, 21)] = true ↔
      recordByte r 1 = 0 ∧ (∀ i, 4 ≤ i → i < 8 → recordByte r i = 0) ∧ ∀ i, 22 ≤ i → i < 64 → recordByte r i = 0 := by
  rw [reservedZero_iff]
  refine ⟨fun h => ⟨?_, fun i h1 h2 => ?_, fun i h1 h2 => ?_⟩, fun ⟨h1, h4, h22⟩ i hi h0 h2 h3 hn => ?_⟩
  · exact h 1 (by omega) (by omega) (by omega) (by omega) (by simp)
  · exact h i (by omega) (by omega) (by omega) (by omega) (by simp; omega)
  · exact h i h2 (by omega) (by omega) (by omega) (by simp; omega)
  · have outside := hn (8, 21) (by simp)
    simp only [not_and] at outside
    by_cases h : i = 1
    · rw [h, h1]
    · by_cases hl : i < 8
      · exact h4 i (by omega) hl
      · exact h22 i (by omega) hi

theorem kindOfCode_eq_some {n : Nat} {k : Kind} : kindOfCode n = some k ↔ k.code = n := by
  unfold kindOfCode
  split <;> cases k <;> simp_all [Kind.code] <;> omega

theorem modeOfCode_eq_some {n : Nat} {m : ValueMode} : modeOfCode n = some m ↔ m.code = n := by
  unfold modeOfCode
  split <;> cases m <;> simp_all [ValueMode.code] <;> omega

theorem notifyOfCode_eq_some {n : Nat} {m : Notify} : notifyOfCode n = some m ↔ m.code = n := by
  unfold notifyOfCode
  split <;> cases m <;> simp_all [Notify.code] <;> omega

/-- A power of two in a range, at most 4096 (R84, R138, R155). -/
theorem powerOfTwoIn_iff {low high n : Nat} :
    powerOfTwoIn low high n = true ↔ (low ≤ n ∧ n ≤ high) ∧ ∃ k < 13, n = 2 ^ k := by
  simp [powerOfTwoIn]

/-- The periods of R2. -/
theorem powerOfTwoIn_period {n : Nat} : powerOfTwoIn 1 64 n = true ↔ n ∈ [1, 2, 4, 8, 16, 32, 64] := by
  constructor
  · rw [powerOfTwoIn_iff]
    rintro ⟨⟨-, h64⟩, k, hk, rfl⟩
    have hk6 : k ≤ 6 := (Nat.pow_le_pow_iff_right (by omega : 1 < 2)).1 h64
    interval_cases k <;> simp
  · intro h
    simp only [List.mem_cons, List.not_mem_nil, or_false] at h
    obtain rfl | rfl | rfl | rfl | rfl | rfl | rfl := h <;> decide

/-- The fields of an entry as its record gives them (section 11.4). -/
def Entry.readFrom (e : Entry) (r : CommandRecord) : Prop :=
  e.handle = recordByte r 8 ∧ e.kind.code = recordByte r 9 ∧ e.lane.val = recordByte r 10 ∧
  e.period = recordByte r 11 ∧ e.phase = recordByte r 12 ∧ e.outCount = recordByte r 13 ∧
  e.inCount = recordByte r 14 ∧ e.mode.code = recordByte r 15 ∧ e.ring.val = recordByte r 16 ∧
  e.notify.code = recordByte r 17 ∧ e.mark = recordField16 r 18 ∧ e.window = recordField16 r 20

/-- A record is accepted exactly for the entry of its bytes, if its fields fit and its must-be-zero bytes are zero. -/
theorem recordEntry_eq_some {r : CommandRecord} {e : Entry} :
    recordEntry r = some e ↔ e.readFrom r ∧ e.fieldsFit = true ∧ reservedZero r [(8, 21)] = true := by
  constructor
  · intro h
    unfold recordEntry at h
    split at h
    · rename_i kind mode notify hk hm hn
      dsimp only at h
      split_ifs at h with hl hr hf
      cases h
      exact ⟨⟨rfl, kindOfCode_eq_some.1 hk, rfl, rfl, rfl, rfl, rfl, modeOfCode_eq_some.1 hm, rfl,
        notifyOfCode_eq_some.1 hn, rfl, rfl⟩, Bool.and_eq_true_iff.1 hf⟩
    · cases h
  · rintro ⟨⟨h8, h9, h10, h11, h12, h13, h14, h15, h16, h17, h18, h20⟩, hf, hz⟩
    have hl : recordByte r 10 < 8 := h10 ▸ e.lane.isLt
    have hr : recordByte r 16 < 16 := h16 ▸ e.ring.isLt
    have he : e =
        { handle := recordByte r 8, kind := e.kind, lane := ⟨recordByte r 10, hl⟩, period := recordByte r 11,
          phase := recordByte r 12, outCount := recordByte r 13, inCount := recordByte r 14, mode := e.mode,
          ring := ⟨recordByte r 16, hr⟩, notify := e.notify, mark := recordField16 r 18,
          window := recordField16 r 20 } := by
      obtain ⟨⟩ := e
      simp only [Entry.mk.injEq, Fin.ext_iff]
      exact ⟨h8, trivial, h10, h11, h12, h13, h14, trivial, h16, trivial, h18, h20⟩
    simp only [recordEntry, kindOfCode_eq_some.2 h9, modeOfCode_eq_some.2 h15, notifyOfCode_eq_some.2 h17, hl, hr,
      dif_pos, ← he, hf, hz, Bool.and_self, if_true]

theorem countFits_true {n : Nat} : countFits true n = true ↔ 1 ≤ n ∧ n ≤ 16 := by simp [countFits]
theorem countFits_false {n : Nat} : countFits false n = true ↔ n = 0 := by simp [countFits]

/-- The field checks of R2, kind by kind. -/
theorem Entry.fieldsFit_iff {e : Entry} :
    e.fieldsFit = true ↔
      16 ≤ e.mark ∧ e.period ∈ [1, 2, 4, 8, 16, 32, 64] ∧ e.phase < e.period ∧
      (e.kind ≠ .marker → 4 ≤ e.window ∧ e.window ≤ 4095) ∧
      (e.kind = .marker → e.lane = 0 ∧ e.window = 0 ∧ e.notify = .none) ∧
      (e.kind = .send ∨ e.kind = .swap → 1 ≤ e.outCount ∧ e.outCount ≤ 16 ∧ e.mode ≠ .none) ∧
      (e.kind = .fetch ∨ e.kind = .probe ∨ e.kind = .marker → e.outCount = 0 ∧ e.mode = .none) ∧
      (e.kind = .fetch ∨ e.kind = .swap → 1 ≤ e.inCount ∧ e.inCount ≤ 16) ∧
      (e.kind = .send ∨ e.kind = .probe ∨ e.kind = .marker → e.inCount = 0 ∧ e.ring = 0) := by
  simp only [Entry.fieldsFit, Bool.and_eq_true, decide_eq_true_eq, powerOfTwoIn_period]
  cases e.kind <;>
    simp [Kind.isLane, Kind.sends, Kind.receives, countFits_true, countFits_false, and_assoc] <;> tauto

/-- Settles O11: an accepted record is one whose fields fit, and what fits is the table of R2. -/
theorem acceptedEntryFitsItsKind : Obligations.AcceptedEntryFitsItsKind := by
  unfold Obligations.AcceptedEntryFitsItsKind
  intro r e
  rw [recordEntry_eq_some, Entry.fieldsFit_iff, reservedZero_entry_iff, Entry.readFrom, recordField16_eq,
    recordField16_eq]
  simp only [Nat.reduceAdd]
  have low := recordByte_lt r 18
  have high := recordByte_lt r 19
  constructor
  · rintro ⟨⟨h8, h9, h10, h11, h12, h13, h14, h15, h16, h17, h18, h20⟩, ⟨hm, hp, hf, rest⟩, hz⟩
    have handle : e.handle ≤ 255 := h8 ▸ Nat.le_of_lt_succ (recordByte_lt r 8)
    obtain ⟨r1, r2, r3, r4, r5, r6⟩ := rest
    exact ⟨h8, h9, h10, h11, h12, h13, h14, h15, h16, h17, h18, h20, hm, by omega, handle, hp, hf, r1, r2, r3, r4, r5,
      r6, hz⟩
  · rintro ⟨h8, h9, h10, h11, h12, h13, h14, h15, h16, h17, h18, h20, hm, -, -, hp, hf, r1, r2, r3, r4, r5, r6, hz⟩
    exact ⟨⟨h8, h9, h10, h11, h12, h13, h14, h15, h16, h17, h18, h20⟩, ⟨hm, hp, hf, r1, r2, r3, r4, r5, r6⟩, hz⟩

/-! ### Validation (R14, R16) -/

theorem InRing.usable_eq_false {r : InRing} : r.usable = false ↔ r.state ≠ .active ∨ r.closing ≠ none := by
  rw [← Bool.not_eq_true, InRing.usable, Bool.and_eq_true, decide_eq_true_eq, Option.isNone_iff_eq_none, not_and_or]

section
variable (s : State) (p : Plan) (e : Entry)

/-- The mark lies out of range for the kind (R14). -/
abbrev Entry.outOfRange : Prop := (e.kind ≠ .marker ∧ p.bm < e.mark + e.window) ∨ (e.kind = .marker ∧ p.bm ≤ e.mark)

/-- The entry needs a ring that is not there to use (R14, R23). -/
abbrev State.lacksRing : Prop :=
  (e.kind = .fetch ∨ e.kind = .swap) ∧ (s.rings[e.ring].state ≠ .active ∨ s.rings[e.ring].closing ≠ none)

/-- The window is too short (R14, R15). -/
abbrev State.windowShort : Prop :=
  e.kind ≠ .marker ∧ e.window < minimumWindow e.outCount e.inCount s.lanes[e.lane].rate p.stu

/-- The four checks of R14, in order. -/
theorem State.entryFault_eq :
    s.entryFault p e =
      if e.outOfRange p then some .markRange
      else if p.matrix < e.period then some .periodRange
      else if s.lacksRing e then some .ringAbsent
      else if s.windowShort p e then some .windowShort
      else none := by
  have marker : e.kind.isLane = false ↔ e.kind = .marker := by cases e.kind <;> simp [Kind.isLane]
  unfold State.entryFault Entry.outOfRange State.lacksRing State.windowShort
  simp only [Kind.isLane_iff, marker, Kind.receives_iff, InRing.usable_eq_false]

end

theorem ite_some_eq_none {α : Type} {c : Prop} [Decidable c] {x : α} {r : Option α} :
    (if c then some x else r) = none ↔ ¬ c ∧ r = none := by
  by_cases h : c <;> simp [h]

/-- An entry passes the checks of R14. -/
theorem State.entryFault_eq_none {s : State} {p : Plan} {e : Entry} :
    s.entryFault p e = none ↔
      (e.kind ≠ .marker → e.mark + e.window ≤ p.bm) ∧ (e.kind = .marker → e.mark < p.bm) ∧ e.period ≤ p.matrix ∧
      (e.kind = .fetch ∨ e.kind = .swap → s.rings[e.ring].state = .active ∧ s.rings[e.ring].closing = none) ∧
      (e.kind ≠ .marker → minimumWindow e.outCount e.inCount s.lanes[e.lane].rate p.stu ≤ e.window) := by
  have none_iff : s.entryFault p e = none ↔
      ¬ e.outOfRange p ∧ ¬ p.matrix < e.period ∧ ¬ s.lacksRing e ∧ ¬ s.windowShort p e := by
    rw [State.entryFault_eq]
    simp only [ite_some_eq_none, and_true]
  rw [none_iff]
  unfold Entry.outOfRange State.lacksRing State.windowShort
  simp only [not_or, not_and, not_lt, not_le, not_not, and_assoc]

/-- The earlier entry `a` and the later entry `b` are closer than R16 allows. -/
theorem Entry.collides_iff {a b : Entry} :
    a.collides b = true ↔ a.kind ≠ .marker ∧ b.kind ≠ .marker ∧ a.lane = b.lane ∧
      a.phase % min a.period b.period = b.phase % min a.period b.period ∧ b.mark < a.mark + a.window + 1 := by
  simp only [Entry.collides, Entry.meets, Bool.and_eq_true, Kind.isLane_iff, decide_eq_true_eq, and_assoc]

/-- No pair of R16 is violated exactly if no two entries collide, the walked ones included. -/
theorem overlapIn_eq_none {seen table : List Entry} :
    overlapIn seen table = none ↔
      (∀ b ∈ table, ∀ a ∈ seen, ¬ a.collides b = true) ∧ table.Pairwise fun a b => ¬ a.collides b = true := by
  induction table generalizing seen with
  | nil => simp [overlapIn]
  | cons b rest ih =>
    unfold overlapIn
    cases hf : seen.find? fun a => a.collides b with
    | some a =>
      have hit := List.find?_some hf
      have mem := List.mem_of_find?_eq_some hf
      simp only [reduceCtorEq, false_iff, not_and]
      exact fun h => absurd hit (h b (by simp) a mem)
    | none =>
      have clear : ∀ a ∈ seen, ¬ a.collides b = true := by simpa using hf
      simp only [ih, List.mem_append, List.mem_cons, List.not_mem_nil, or_false, List.pairwise_cons]
      constructor
      · rintro ⟨h, hp⟩
        refine ⟨fun x hx a ha => ?_, fun x hx => h x hx b (.inr rfl), hp⟩
        obtain rfl | hx := hx
        · exact clear a ha
        · exact h x hx a (.inl ha)
      · rintro ⟨h, hb, hp⟩
        refine ⟨fun x hx a ha => ?_, hp⟩
        obtain ha | rfl := ha
        · exact h x (.inr hx) a ha
        · exact hb x hx

/-- Entries walked without a violation count as seen (R16). -/
theorem overlapIn_append {seen front rest : List Entry} (h : overlapIn seen front = none) :
    overlapIn seen (front ++ rest) = overlapIn (seen ++ front) rest := by
  induction front generalizing seen with
  | nil => simp
  | cons b front ih =>
    unfold overlapIn at h
    rw [List.cons_append, overlapIn]
    cases hf : seen.find? fun a => a.collides b with
    | some a => simp [hf] at h
    | none =>
      simp only [hf] at h
      simp only [ih h, List.append_assoc, List.singleton_append]

/-- The first violating pair of R16 gives the violation. -/
theorem overlapIn_first {pre between post : List Entry} {a b : Entry}
    (hw : (pre ++ a :: between).Pairwise fun x y => ¬ x.collides y = true) (hp : ∀ x ∈ pre, ¬ x.collides b = true)
    (hc : a.collides b = true) :
    overlapIn [] (pre ++ a :: (between ++ b :: post)) = some ⟨.laneOverlap, a.handle, b.handle⟩ := by
  have walked : overlapIn [] (pre ++ a :: between) = none := overlapIn_eq_none.2 ⟨by simp, hw⟩
  have split : pre ++ a :: (between ++ b :: post) = (pre ++ a :: between) ++ b :: post := by simp
  have found : (pre ++ a :: between).find? (fun x => x.collides b) = some a := by
    rw [List.find?_append, List.find?_eq_none.2 hp, Option.none_or]
    exact List.find?_cons_of_pos hc
  rw [split, overlapIn_append walked, List.nil_append, overlapIn, found]

/-- The first entry that fails a check of R14, with its code, or none. -/
theorem findSome_entryFault_eq_none {s : State} {p : Plan} {table : List Entry} :
    (table.findSome? fun e => (s.entryFault p e).map fun code => (code, e.handle)) = none ↔
      ∀ e ∈ table, s.entryFault p e = none := by
  simp

section
variable {s : State} {p : Plan} {table : List Entry} (hp : s.sc.plan = some p)
include hp

/-- Where every entry passes the checks of R14, the pairs of R16 decide. -/
theorem State.validate_of_entries (h : ∀ e ∈ table, s.entryFault p e = none) :
    s.validate table = overlapIn [] table := by
  simp only [State.validate, hp, findSome_entryFault_eq_none.2 h]

theorem State.validate_first {pre post : List Entry} {e : Entry} {code : Status}
    (h : ∀ x ∈ pre, s.entryFault p x = none) (he : s.entryFault p e = some code) :
    s.validate (pre ++ e :: post) = some ⟨code, e.handle, 0xFFFF⟩ := by
  have found : ((pre ++ e :: post).findSome? fun e => (s.entryFault p e).map fun code => (code, e.handle)) =
      some (code, e.handle) := by
    rw [List.findSome?_append, findSome_entryFault_eq_none.2 h, Option.none_or, List.findSome?_cons, he]
    rfl
  simp only [State.validate, hp, found]
  rfl

/-- A table is valid exactly if its entries pass R14 and no two of them collide (R16). -/
theorem State.validate_eq_none :
    s.validate table = none ↔
      (∀ e ∈ table, s.entryFault p e = none) ∧ table.Pairwise fun a b => ¬ a.collides b = true := by
  by_cases h : ∀ e ∈ table, s.entryFault p e = none
  · rw [State.validate_of_entries hp h, overlapIn_eq_none]
    exact ⟨fun k => ⟨h, k.2⟩, fun k => ⟨by simp, k.2⟩⟩
  · simp only [h, false_and, iff_false]
    cases hf : table.findSome? fun e => (s.entryFault p e).map fun code => (code, e.handle) with
    | none => exact absurd (findSome_entryFault_eq_none.1 hf) h
    | some x => simp [State.validate, hp, hf]

end

/-- Settles O17: the checks of R14 in order, and the pairs of R16 in table order. -/
theorem validTablesKeepEveryCheck : Obligations.ValidTablesKeepEveryCheck := by
  unfold Obligations.ValidTablesKeepEveryCheck
  refine fun s table => ⟨fun hp => by simp only [State.validate, hp]; rfl, fun p hp => ⟨?_, fun e => ?_, ?_, ?_⟩⟩
  · simp only [State.validate_eq_none hp, State.entryFault_eq_none, Entry.collides_iff, not_and, not_lt,
      Nat.succ_le_iff]
  · intro range absent short
    have fault : s.entryFault p e = _ := State.entryFault_eq s p e
    refine ⟨fun h => ?_, fun h1 h2 => ?_, fun h1 h2 h3 => ?_, fun h1 h2 h3 h4 => ?_, fun h1 h2 h3 h4 => ?_⟩
    · rw [fault, if_pos h]
    · rw [fault, if_neg h1, if_pos h2]
    · rw [fault, if_neg h1, if_neg (Nat.not_lt.2 h2), if_pos h3]
    · rw [fault, if_neg h1, if_neg (Nat.not_lt.2 h2), if_neg h3, if_pos h4]
    · rw [fault, if_neg h1, if_neg (Nat.not_lt.2 h2), if_neg h3, if_neg h4]
  · rintro pre e post code rfl hx he
    exact State.validate_first hp hx he
  · rintro clash pre a between b post rfl hx hw hpre hc
    rw [State.validate_of_entries hp hx]
    have clash_iff (x y : Entry) : x.collides y = true ↔ clash x y := Entry.collides_iff
    refine overlapIn_first ?_ (fun x hx => ?_) ((clash_iff a b).2 hc)
    · exact hw.imp fun h hc => h ((clash_iff _ _).1 hc)
    · exact fun h => hpre x hx ((clash_iff _ _).1 h)

end Sys2Proof.Machine

namespace Sys2Proof.Machine

set_option Elab.async false

/-! ### A step that ends with an evaluation of the level (R129) -/

/-- A step whose last act is an evaluation leaves the level of its conditions, and posts what it has gathered with HEALTH
where the level has changed. -/
theorem Work.evaluate_finish {s : State} {w : Work} (hd : w.s.dev ≠ .fatal) (hh : w.health = []) (he : w.s.ew = s.ew)
    (ht : w.s.sc.localTime = s.sc.localTime) (hl : w.s.hm.degraded = s.hm.degraded) :
    let t := w.evaluate.finish
    t.healthNow = t.hm ∧ Posts s t w.others (healthChange s t) ∧
      ∃ e os n, t = { w.s with hm := w.s.healthNow, ew := e, outputs := os, free := n } := by
  obtain ⟨e, os, n, hf⟩ := w.evaluate.finish_shape
  have hw := w.evaluate_spec
  have posts := Work.finish_Posts s w.evaluate (by rw [hw]; exact hd) (by rw [hw]; exact he) (by rw [hw]; exact ht)
  have state : w.evaluate.s = { w.s with hm := w.s.healthNow } := by rw [hw]
  have others : w.evaluate.others = w.others := by rw [hw]
  rw [state] at hf
  have change : w.evaluate.health = healthChange s w.evaluate.finish := by
    rw [hf, hw]
    simp only [hh, List.nil_append, healthChange, hl]
    rfl
  rw [others, change] at posts
  refine ⟨?_, posts, e, os, n, hf⟩
  rw [hf]
  rfl

/-- A held command leads to the state that its owner makes of the one whose holding place is empty (R145). -/
theorem exec_held {c : Instr} {opcode : Nat} {owner : CommandRecord → CmdRef → State → State} {s t : State} {h : Held}
    (hx : exec c s = .next (s.runCommand opcode owner)) (hh : s.heldCommand opcode = some h)
    (ho : owner h.record h.ref s.taken = t) : exec c s = .next t := by
  rw [hx, State.runCommand_held hh, ho]

/-! ### The swap, whole (R19, R20, R21, R54) -/

/-- An old entry looked up for a new one is one that passes its record on to it (R20). -/
theorem carriedFrom_some {old : List ActiveEntry} {e : Entry} {o : ActiveEntry} (h : carriedFrom old e = some o) :
    o ∈ old ∧ passesOn o e = true :=
  ⟨List.mem_of_find?_eq_some h, List.find?_some (p := fun a => passesOn a e) h⟩

theorem carriedFrom_none {old : List ActiveEntry} {e : Entry} (h : carriedFrom old e = none) :
    ∀ o ∈ old, passesOn o e = false := fun o ho =>
  Bool.eq_false_iff.2 (List.find?_eq_none.1 h o ho)

/-- An entry carries a record over exactly if an old entry passes one on (R20). -/
theorem carriedFrom_isSome (old : List ActiveEntry) (e : Entry) :
    (carriedFrom old e).isSome = old.any fun a => passesOn a e := List.isSome_find?

/-- The records of the new table: each passed on by an old entry, or fresh (R20). -/
theorem carryOver_run (old : List ActiveEntry) (e : Entry) :
    (∃ o ∈ old, passesOn o e = true ∧ (carryOver old e).run = o.run) ∨
      ((∀ o ∈ old, passesOn o e = false) ∧ (carryOver old e).run = Runtime.fresh) := by
  unfold carryOver
  cases h : carriedFrom old e with
  | some o => exact .inl ⟨o, (carriedFrom_some h).1, (carriedFrom_some h).2, rfl⟩
  | none => exact .inr ⟨carriedFrom_none h, rfl⟩

/-- The deferred STAGEs that a swap ends are those of the old entries that pass no record on (R54). -/
theorem finishedStages_eq (s : State) :
    (finishedStages s.edit s.active).map (fun ref => (⟨ref, .entryRemoved, 0⟩ : Completion)) =
      (s.active.filter fun a => !s.edit.any (passesOn a)).filterMap fun a =>
        a.run.stage.map fun d => ⟨d.ref, .entryRemoved, 0⟩ := by
  simp only [finishedStages, List.map_filterMap, Option.map_map]
  rfl

/-- The number of records carried over in the result of EDIT COMMIT (section 11.2). -/
theorem swapResult_eq (s : State) :
    pack [(s.edit.length, 0), ((s.edit.filter fun x => (carriedFrom s.active x).isSome).length, 16)] =
      pack [(s.edit.length, 0), ((s.edit.filter fun e => s.active.any fun a => passesOn a e).length, 16)] := by
  simp only [carriedFrom_isSome]

/-- The table, E and the open matrix record after a swap, before its completions (R19, R20, R130). -/
def State.swapped (s : State) (atOnce : Bool) : State :=
  let t := { s with
    active := s.edit.map (carryOver s.active), edit := [], session := none,
    lanes := s.lanes.map fun (x : Lane) => { x with inFlight := x.inFlight.map (afterSwap s) } }
  { t with hm := { s.hm with
      expected := t.expectedNow,
      openRecord :=
        if atOnce then s.hm.openRecord.map fun (m : MatrixRecord) => { m with expected := t.expectedNow, isPartial := true }
        else s.hm.openRecord } }

theorem State.swapped_lane (s : State) (atOnce : Bool) (l : LaneId) :
    (s.swapped atOnce).lanes[l] = { s.lanes[l] with inFlight := (s.lanes[l]).inFlight.map (afterSwap s) } := by
  simp [State.swapped]

/-- A swap leads to the swapped tables with its completions handed (R19, R54). -/
theorem State.swap_eq (s : State) (commit : CmdRef) (atOnce : Bool) :
    s.swap commit atOnce =
      ((s.swapped atOnce).completeAll (finishedStages s.edit s.active) .entryRemoved 0).complete commit .ok
        (pack [(s.edit.length, 0), ((s.edit.filter fun e => s.active.any fun a => passesOn a e).length, 16)]) := by
  have detach : Exchange.detach s.edit s.active = afterSwap s := funext (Exchange.detach_eq_afterSwap s)
  rw [← swapResult_eq]
  unfold State.swap State.swapped
  rw [detach]

/-- A swap changes the pairs and the outputs beside the swapped tables, and hands its completions in order. -/
theorem State.swap_spec (s : State) (commit : CmdRef) (atOnce : Bool) :
    (∃ ps os, s.swap commit atOnce = { s.swapped atOnce with pairs := ps, outputs := os }) ∧
      Hands s (s.swap commit atOnce) (swapCompletions s commit) ∧
      ∀ p : PairId, (s.swap commit atOnce).pairs[p].serves = s.pairs[p].serves := by
  rw [State.swap_eq]
  obtain ⟨hands, serves⟩ :=
    State.completeAll_Hands (finishedStages s.edit s.active) .entryRemoved 0 (s.swapped atOnce)
  have ended := State.complete_Hands ((s.swapped atOnce).completeAll (finishedStages s.edit s.active) .entryRemoved 0)
    commit .ok (pack [(s.edit.length, 0), ((s.edit.filter fun e => s.active.any fun a => passesOn a e).length, 16)])
  refine ⟨?_, ?_, fun p => (State.complete_keeps_serves _ _ _ _ p).trans (serves p)⟩
  · obtain ⟨ps, os, h⟩ := State.completeAll_shape (finishedStages s.edit s.active) .entryRemoved 0 (s.swapped atOnce)
    obtain ⟨ps', os', h'⟩ := State.complete_shape
      ((s.swapped atOnce).completeAll (finishedStages s.edit s.active) .entryRemoved 0) commit .ok
      (pack [(s.edit.length, 0), ((s.edit.filter fun e => s.active.any fun a => passesOn a e).length, 16)])
    exact ⟨ps', os', by rw [h', h]⟩
  · have both := Hands.trans hands ended serves
    rw [finishedStages_eq] at both
    exact both

/-- E of the swapped table under a plan (R130). -/
theorem State.swapped_expected {s : State} {p : Plan} (hp : s.sc.plan = some p) (atOnce : Bool) :
    (s.swapped atOnce).hm.expected =
      ((s.edit.filter fun e => decide (e.kind ≠ .marker)).map fun e => p.matrix / e.period).sum := by
  have lane (e : Entry) : e.kind.isLane = decide (e.kind ≠ .marker) := by cases e.kind <;> rfl
  show State.expectedNow _ = _
  unfold State.expectedNow
  simp only [hp, List.filter_map, List.map_map, Function.comp_def, carryOver, lane]
  rfl

/-- The swap does to tables, session, records and E what R19 and R20 say. -/
theorem State.swapped_Swapped {s t : State} {p : Plan} (hp : s.sc.plan = some p) {atOnce : Bool}
    (ha : t.active = (s.swapped atOnce).active) (he : t.edit = []) (hn : t.session = none)
    (hm : t.hm.expected = (s.swapped atOnce).hm.expected) : Swapped s t p := by
  refine ⟨?_, he, hn, ?_, hm.trans (State.swapped_expected hp atOnce)⟩
  · rw [State.activeEntries, ha]
    exact swap_entries s.edit s.active
  · rw [ha]
    intro a h
    obtain ⟨e, -, rfl⟩ := List.mem_map.1 h
    exact carryOver_run s.active e

/-! ### EDIT COMMIT, case by case (R13, R17) -/

section
variable {r : CommandRecord} {ref : CmdRef} {s : State} {code : Status}

theorem editCommitOwner_reserved (hz : reservedZero r [] = false) :
    editCommitOwner r ref s = s.complete ref .badField 0 := by
  rw [editCommitOwner, if_pos hz]

variable (hz : reservedZero r [] = true)
include hz

theorem editCommitOwner_refused (hc : s.sessionCheck ref.pair = some code) :
    editCommitOwner r ref s = s.complete ref code 0 := by
  simp [editCommitOwner, hz, hc]

variable (hc : s.sessionCheck ref.pair = none)
include hc

theorem editCommitOwner_violation {v : Violation} (hv : s.validate s.edit = some v) :
    editCommitOwner r ref s = s.complete ref v.status v.result := by
  simp [editCommitOwner, hz, hc, hv]

theorem editCommitOwner_pending (hv : s.validate s.edit = none) (hd : s.dispatching = true) :
    editCommitOwner r ref s = { s with session := some { owner := ref.pair, commit := some ref } } := by
  simp [editCommitOwner, hz, hc, hv, hd]

theorem editCommitOwner_swap (hv : s.validate s.edit = none) (hd : s.dispatching = false) :
    editCommitOwner r ref s = ((s.swap ref true).work.evaluate).finish := by
  simp [editCommitOwner, hz, hc, hv, hd]

end

/-- A device that holds a command for execution is not in FATAL (R145). -/
theorem State.heldCommand_serving {s : State} {opcode : Nat} {h : Held} (hh : s.heldCommand opcode = some h) :
    s.serving = true ∧ s.executing = none ∧ s.holding = some h ∧ recordOpcode h.record = opcode := by
  unfold State.heldCommand at hh
  split at hh
  · rename_i x hx
    split_ifs at hh with hc
    cases hh
    simp only [Bool.and_eq_true, Option.isNone_iff_eq_none, decide_eq_true_eq] at hc
    exact ⟨hc.1.1, hc.1.2, hx, hc.2⟩
  · cases hh

theorem State.serving_not_fatal {s : State} (h : s.serving = true) : s.dev ≠ .fatal := by
  intro hd
  rw [State.serving, hd] at h
  cases h

theorem State.heldCommand_not_fatal {s : State} {opcode : Nat} {h : Held} (hh : s.heldCommand opcode = some h) :
    s.dev ≠ .fatal := State.serving_not_fatal (State.heldCommand_serving hh).1

/-- Settles O18: the refusals in order, the pending commit, and the swap at once with the level evaluated after it. -/
theorem editCommitWaitsOrSwaps : Obligations.EditCommitWaitsOrSwaps := by
  unfold Obligations.EditCommitWaitsOrSwaps
  refine ⟨fun s h hh => ⟨fun hz => .of_owner rfl hh (editCommitOwner_reserved hz), fun hz => ?_⟩, ?_⟩
  · obtain ⟨closed, notOwner, pending⟩ :=
      sessionCheck_answers (c := .editCommit) rfl hh fun _ hc => editCommitOwner_refused hz hc
    refine ⟨closed, notOwner, pending, fun hs => ?_⟩
    have hc : s.taken.sessionCheck h.ref.pair = none := State.sessionCheck_eq_none hs
    refine ⟨fun v hv => .of_owner rfl hh (editCommitOwner_violation hz hc hv), fun hv hd hl => ?_⟩
    have dispatching : s.taken.dispatching = true := decide_eq_true ⟨hd, hl⟩
    exact exec_held rfl hh (editCommitOwner_pending hz hc hv dispatching)
  · intro s h p hh hz hs hp hv hd
    have hc : s.taken.sessionCheck h.ref.pair = none := State.sessionCheck_eq_none hs
    have idle : s.taken.dispatching = false := decide_eq_false fun ⟨h1, h2⟩ => hd.elim (· h1) (· h2)
    obtain ⟨⟨ps, os, swap⟩, hands, -⟩ := s.taken.swap_spec h.ref true
    obtain ⟨level, posts, e, os', n, final⟩ := Work.evaluate_finish (s := s) (w := (s.taken.swap h.ref true).work)
      (by rw [swap]; exact (State.heldCommand_not_fatal hh : s.dev ≠ .fatal)) rfl (by rw [swap]; rfl) (by rw [swap]; rfl) (by rw [swap]; rfl)
    refine ⟨_, exec_held rfl hh (editCommitOwner_swap hz hc hv idle), ?_⟩
    refine ⟨?_, ?_, ?_, ?_, level, posts, ?_⟩
    all_goals rw [final]; simp only [State.work]
    · refine State.swapped_Swapped (s := s) hp (atOnce := true) ?_ ?_ ?_ ?_ <;> rw [swap] <;> rfl
    · exact hands
    · rw [swap]
      rfl
    · rw [swap]
      rfl
    · rw [swap]
      exact ⟨s.taken.swapped_lane true, rfl, rfl, rfl, rfl⟩

end Sys2Proof.Machine

/-! PROOFS. Frames on the wire: their bits, their cells, their check (R63, R64, R100, R176, section 11.5). -/

namespace Sys2Proof.Machine

set_option Elab.async false

/-! ### Numbers as bits, most significant first -/

@[simp] theorem msbBits_length (n v : Nat) : (msbBits n v).length = n := by simp [msbBits]

theorem msbBits_succ (n v : Nat) : msbBits (n + 1) v = v.testBit n :: msbBits n v := by
  simp only [msbBits, List.range_succ_eq_map, List.map_cons, List.map_map]
  refine congrArg₂ _ (by simp) (List.map_congr_left fun i _ => ?_)
  simp only [Function.comp]
  congr 1
  omega

theorem bitsValue_foldl (bits : List Bool) (acc : Nat) :
    bits.foldl (fun acc b => 2 * acc + bit b) acc = acc * 2 ^ bits.length + bitsValue bits := by
  unfold bitsValue
  induction bits generalizing acc with
  | nil => simp
  | cons b bs ih =>
    rw [List.foldl_cons, ih, List.foldl_cons, ih (2 * 0 + bit b), List.length_cons]
    ring

theorem bitsValue_cons (b : Bool) (bits : List Bool) :
    bitsValue (b :: bits) = bit b * 2 ^ bits.length + bitsValue bits := by
  rw [bitsValue, List.foldl_cons, bitsValue_foldl]
  simp

theorem bitsValue_lt (bits : List Bool) : bitsValue bits < 2 ^ bits.length := by
  induction bits with
  | nil => simp [bitsValue]
  | cons b bs ih =>
    rw [bitsValue_cons, List.length_cons, pow_succ]
    cases b <;> simp [bit] <;> omega

/-- A number's bits spell it, as far as they reach (chapter 11). -/
theorem bitsValue_msbBits (n v : Nat) : bitsValue (msbBits n v) = v % 2 ^ n := by
  induction n with
  | zero => simp [msbBits, bitsValue, Nat.mod_one]
  | succ n ih =>
    have digit : bit (v.testBit n) = v / 2 ^ n % 2 := by rw [← Nat.toNat_testBit]; cases v.testBit n <;> rfl
    rw [msbBits_succ, bitsValue_cons, ih, msbBits_length, digit, Nat.mod_pow_succ]
    ring

/-- Bits of one length that spell one number are the same. -/
theorem bitsValue_injective {a b : List Bool} (hl : a.length = b.length) (h : bitsValue a = bitsValue b) : a = b := by
  induction a generalizing b with
  | nil => exact (List.length_eq_zero_iff.1 hl.symm).symm
  | cons x xs ih =>
    obtain _ | ⟨y, ys⟩ := b
    · simp at hl
    · have len : xs.length = ys.length := by simpa using hl
      rw [bitsValue_cons, bitsValue_cons, len] at h
      have hx := len ▸ bitsValue_lt xs
      have hy := bitsValue_lt ys
      have first : x = y := by
        cases x <;> cases y <;> simp [bit] at h ⊢ <;> omega
      subst first
      rw [ih len (by omega)]

/-! ### Fields of a frame -/

/-- A field that has been received is its bits. -/
theorem frameField_eq {bits : List Bool} {start n : Nat} (h : start + n ≤ bits.length) :
    frameField bits start n = bitsValue ((bits.drop start).take n) := by
  unfold frameField
  congr 1
  refine List.ext_getElem (by simp; omega) fun i h1 h2 => ?_
  simp only [List.length_map, List.length_range] at h1
  have hi : start + i < bits.length := by omega
  simp [List.getD_eq_getElem?_getD, List.getElem?_eq_getElem hi]

/-- A field at its place between what precedes and what follows it. -/
theorem frameField_at {bits front field rest : List Bool} {start n : Nat} (h : bits = front ++ (field ++ rest))
    (hs : front.length = start) (hn : field.length = n) : frameField bits start n = bitsValue field := by
  subst h hs hn
  rw [frameField_eq (by simp), List.drop_left, List.take_left]

/-- A field that holds a number which fits it. -/
theorem frameField_msbBits {bits front rest : List Bool} {start n v : Nat} (h : bits = front ++ (msbBits n v ++ rest))
    (hs : front.length = start) (hv : v < 2 ^ n) : frameField bits start n = v := by
  rw [frameField_at h hs (msbBits_length n v), bitsValue_msbBits, Nat.mod_eq_of_lt hv]

/-! ### The check (R176) -/

/-- One covered bit in the check register (R176). -/
def checkStep (reg : BitVec 16) (b : Bool) : BitVec 16 :=
  if reg.msb != b then (reg <<< 1) ^^^ 0x1021#16 else reg <<< 1

theorem checkOf_eq (covered : List Bool) : checkOf covered = covered.foldl checkStep 0xFFFF#16 := rfl

/-- The lowest bit of the register tells whether the bit shifted out differed from the covered one. -/
theorem checkStep_lsb (reg : BitVec 16) (b : Bool) : (checkStep reg b).getLsbD 0 = (reg.msb != b) := by
  unfold checkStep
  split <;> simp_all

theorem checkStep_ne (reg : BitVec 16) (b : Bool) : checkStep reg (!b) ≠ checkStep reg b := by
  intro h
  have bits := congrArg (BitVec.getLsbD · 0) h
  simp only [checkStep_lsb] at bits
  cases hm : reg.msb <;> cases b <;> simp [hm] at bits

/-- The register before a covered bit is determined by the one after it. -/
theorem checkStep_injective {x y : BitVec 16} {b : Bool} (h : checkStep x b = checkStep y b) : x = y := by
  have low := congrArg (BitVec.getLsbD · 0) h
  simp only [checkStep_lsb] at low
  have top : x.msb = y.msb := by cases hx : x.msb <;> cases hy : y.msb <;> cases b <;> simp [hx, hy] at low ⊢
  have shifted : x <<< 1 = y <<< 1 := by
    unfold checkStep at h
    rw [top] at h
    split at h
    · exact (BitVec.xor_left_inj _).1 h
    · exact h
  refine BitVec.eq_of_getLsbD_eq fun i hi => ?_
  by_cases h15 : i = 15
  · subst h15
    simpa only [BitVec.msb_eq_getLsbD_last] using top
  · have bit_i := congrArg (BitVec.getLsbD · (i + 1)) shifted
    have hi' : i + 1 < 16 := by omega
    simpa only [BitVec.getLsbD_shiftLeft, hi', decide_true, Bool.true_and, Nat.not_lt.2 (Nat.le_add_left 1 i),
      decide_false, Bool.not_false, Nat.add_sub_cancel] using bit_i

theorem foldl_checkStep_injective {x y : BitVec 16} (bits : List Bool)
    (h : bits.foldl checkStep x = bits.foldl checkStep y) : x = y := by
  induction bits generalizing x y with
  | nil => exact h
  | cons b bs ih => exact checkStep_injective (ih h)

/-- One inverted bit changes the check (R176). -/
theorem checkOf_set_ne {covered : List Bool} {k : Nat} {b : Bool} (h : covered[k]? = some b) :
    checkOf (covered.set k (!b)) ≠ checkOf covered := by
  obtain ⟨hk, rfl⟩ := List.getElem?_eq_some_iff.1 h
  have split : covered = covered.take k ++ covered[k] :: covered.drop (k + 1) := by
    rw [← List.drop_eq_getElem_cons hk, List.take_append_drop]
  have flipped : covered.set k (!covered[k]) = covered.take k ++ (!covered[k]) :: covered.drop (k + 1) := by
    rw [List.set_eq_take_append_cons_drop, if_pos hk]
  have before : checkOf covered =
      (covered.drop (k + 1)).foldl checkStep (checkStep ((covered.take k).foldl checkStep 0xFFFF#16) covered[k]) := by
    conv => lhs; rw [split]
    rw [checkOf_eq, List.foldl_append, List.foldl_cons]
  rw [flipped, before, checkOf_eq, List.foldl_append, List.foldl_cons]
  exact fun he => checkStep_ne _ _ (foldl_checkStep_injective _ he)

theorem checkGood_iff {bits : List Bool} :
    checkGood bits = true ↔
      16 ≤ bits.length ∧ bits.drop (bits.length - 16) = msbBits 16 (checkOf (coveredBits bits)).toNat := by
  simp [checkGood]

/-- A frame that ends with the check of what precedes it has a good check. -/
theorem checkGood_append (body : List Bool) : checkGood (body ++ msbBits 16 (checkOf body).toNat) = true := by
  rw [checkGood_iff]
  simp [coveredBits]

theorem msbBits_toNat_injective {x y : BitVec 16} (h : msbBits 16 x.toNat = msbBits 16 y.toNat) : x = y := by
  have values := congrArg bitsValue h
  rw [bitsValue_msbBits, bitsValue_msbBits, Nat.mod_eq_of_lt x.isLt, Nat.mod_eq_of_lt y.isLt] at values
  exact BitVec.eq_of_toNat_eq values

/-- A good frame with one bit inverted has a wrong check: the bit is one of the covered, or one of the check itself. -/
theorem checkGood_set {bits : List Bool} {k : Nat} {b : Bool} (hg : checkGood bits = true) (hb : bits[k]? = some b) :
    checkGood (bits.set k (!b)) = false := by
  obtain ⟨hl, hc⟩ := checkGood_iff.1 hg
  obtain ⟨hk, hkb⟩ := List.getElem?_eq_some_iff.1 hb
  rw [← Bool.not_eq_true, checkGood_iff]
  rintro ⟨-, hs⟩
  simp only [coveredBits, List.length_set] at hs hc
  by_cases hin : k < bits.length - 16
  · rw [List.drop_set_of_lt hin, hc, List.take_set] at hs
    have covered : (bits.take (bits.length - 16))[k]? = some b := by rw [List.getElem?_take_of_lt hin, hb]
    exact checkOf_set_ne covered (msbBits_toNat_injective hs).symm
  · have same : (bits.set k (!b)).take (bits.length - 16) = bits.take (bits.length - 16) :=
      List.take_set_of_le (Nat.not_lt.1 hin)
    rw [same, ← hc] at hs
    have at_k := congrArg (·[k - (bits.length - 16)]?) hs
    have place : bits.length - 16 + (k - (bits.length - 16)) = k := by omega
    simp only [List.getElem?_drop, place, List.getElem?_set_self hk, hb, Option.some.injEq] at at_k
    cases b <;> simp at at_k

end Sys2Proof.Machine

namespace Sys2Proof.Machine

set_option Elab.async false

/-! ### Cells on a lane (R176) -/

/-- The level at which the cells of some bits end. -/
theorem getLastD_map_dataCell (bits : List Bool) (level : Bool) :
    ((bits.map dataCell).getLastD (level, level)).2 = bits.getLastD level := by
  simp [List.getLastD_eq_getLast?, List.getLast?_map]
  cases bits.getLast? <;> rfl

theorem cellKind_dataCell (level b : Bool) : cellKind level (dataCell b) = .data b := by
  cases b <;> simp [cellKind, dataCell]

theorem cellKind_ending (level : Bool) : cellKind level (!level, !level) = .ending := by
  cases level <;> simp [cellKind]

/-- The bits of data cells stand before what the cells after them hold. -/
theorem cellBits_append (level : Bool) (bits : List Bool) (rest : List LineCell) :
    cellBits level (bits.map dataCell ++ rest) = bits ++ cellBits (bits.getLastD level) rest := by
  induction bits generalizing level with
  | nil => rfl
  | cons b bs ih =>
    simp only [List.map_cons, List.cons_append, cellBits, cellKind_dataCell]
    rw [show (dataCell b).2 = b from rfl, ih, List.getLastD_cons]

theorem endsTaken_append (level : Bool) (bits : List Bool) (rest : List LineCell) :
    endsTaken level (bits.map dataCell ++ rest) = endsTaken (bits.getLastD level) rest := by
  induction bits generalizing level with
  | nil => rfl
  | cons b bs ih =>
    simp only [List.map_cons, List.cons_append, endsTaken, cellKind_dataCell]
    rw [show (dataCell b).2 = b from rfl, ih, List.getLastD_cons]
    simp

theorem endsTaken_endCells (level : Bool) (k : Nat) : endsTaken level (endCells level k) = k := by
  induction k generalizing level with
  | zero => rfl
  | succ k ih =>
    simp only [endCells, endsTaken, cellKind_ending, if_true, ih]
    omega

theorem cellBits_endCells (level : Bool) (k : Nat) : cellBits level (endCells level k) = [] := by
  cases k with
  | zero => rfl
  | succ k => simp only [endCells, cellBits, cellKind_ending]

@[simp] theorem endCells_length (level : Bool) (k : Nat) : (endCells level k).length = k := by
  induction k generalizing level with
  | zero => rfl
  | succ k ih => simp [endCells, ih]

theorem endCells_dropLast (level : Bool) (k : Nat) : (endCells level (k + 1)).dropLast = endCells level k := by
  induction k generalizing level with
  | zero => rfl
  | succ k ih =>
    have step : endCells level (k + 2) = (!level, !level) :: endCells (!level) (k + 1) := rfl
    rw [step, List.dropLast_cons_of_ne_nil (by simp [endCells]), ih, endCells]

/-- The cells of a frame that begins with the start pattern: the pattern, the bits, the end cells from their last level. -/
theorem lineCells_pattern (bits : List Bool) (k : Nat) :
    lineCells (lanePattern ++ bits) k =
      lanePattern.map dataCell ++ (bits.map dataCell ++ endCells (bits.getLastD true) k) := by
  have last : (lanePattern ++ bits).getLastD false = bits.getLastD true := by
    rw [List.getLastD_eq_getLast?, List.getLast?_append, List.getLastD_eq_getLast?]
    cases bits.getLast? <;> rfl
  rw [lineCells, last, List.map_append, List.append_assoc]

/-- The cells of a frame give back its bits exactly with the fourth end cell (R64). -/
theorem replyOf_lineCells (bits : List Bool) (k : Nat) :
    replyOf (lineCells (lanePattern ++ bits) k) = if k = 4 then some bits else none := by
  have body : (lineCells (lanePattern ++ bits) k).drop 16 = bits.map dataCell ++ endCells (bits.getLastD true) k := by
    rw [lineCells_pattern]
    exact List.drop_left' (by simp [lanePattern])
  have front : (lineCells (lanePattern ++ bits) k).take 16 = lanePattern.map dataCell := by
    rw [lineCells_pattern]
    exact List.take_left' (by simp [lanePattern])
  unfold replyOf frameBits
  rw [body, front, endsTaken_append, endsTaken_endCells, cellBits_append, cellBits_endCells, List.append_nil]
  by_cases h : k = 4
  · subst h
    have last : (bits.map dataCell ++ endCells (bits.getLastD true) 4).dropLast =
        bits.map dataCell ++ endCells (bits.getLastD true) 3 := by
      rw [List.dropLast_append_of_ne_nil (by simp [endCells]), endCells_dropLast]
    rw [last, endsTaken_append, endsTaken_endCells]
    simp
  · simp [h]

/-! ### Replies (R64, R67) -/

/-- The fields of a reply, whatever follows them. -/
theorem reply_fields {bits rest : List Bool} {echo : Byte} {status count : Nat}
    (h : bits = msbBits 8 echo.toNat ++ msbBits 3 status ++ msbBits 5 count ++ rest) (hs : status < 8)
    (hc : count < 32) : replyEcho bits = echo ∧ replyStatus bits = status ∧ replyCount bits = count := by
  refine ⟨?_, ?_, ?_⟩
  · have echo_bits : frameField bits 0 8 = echo.toNat :=
      frameField_msbBits (front := []) (rest := msbBits 3 status ++ msbBits 5 count ++ rest) (by simp [h]) rfl echo.isLt
    rw [replyEcho, echo_bits, BitVec.ofNat_toNat, BitVec.setWidth_eq]
  · exact frameField_msbBits (rest := msbBits 5 count ++ rest) (front := msbBits 8 echo.toNat) (by simp [h]) (by simp) hs
  · exact frameField_msbBits (rest := rest) (front := msbBits 8 echo.toNat ++ msbBits 3 status) (by simp [h]) (by simp) hc

/-- The words of a frame, one after the other. -/
theorem length_words (words : List StationWord) : (words.flatMap fun w => msbBits 16 w.toNat).length = 16 * words.length := by
  induction words with
  | nil => rfl
  | cons w ws ih => simp only [List.flatMap_cons, List.length_append, msbBits_length, ih, List.length_cons]; omega

/-- Word `j` of a frame stands after the words before it. -/
theorem frameField_word {bits front rest : List Bool} {words : List StationWord} {start j : Nat} {w : StationWord}
    (h : bits = front ++ ((words.flatMap fun w => msbBits 16 w.toNat) ++ rest)) (hs : front.length = start)
    (hw : words[j]? = some w) : frameField bits (start + 16 * j) 16 = w.toNat := by
  obtain ⟨hj, rfl⟩ := List.getElem?_eq_some_iff.1 hw
  refine frameField_msbBits (v := words[j].toNat)
    (front := front ++ (words.take j).flatMap fun w => msbBits 16 w.toNat)
    (rest := ((words.drop (j + 1)).flatMap fun w => msbBits 16 w.toNat) ++ rest) ?_ ?_ words[j].isLt
  · have split : words = words.take j ++ words[j] :: words.drop (j + 1) := by
      rw [← List.drop_eq_getElem_cons hj, List.take_append_drop]
    have bits_of_words : (words.flatMap fun w => msbBits 16 w.toNat) =
        ((words.take j).flatMap fun w => msbBits 16 w.toNat) ++ (msbBits 16 words[j].toNat ++
          (words.drop (j + 1)).flatMap fun w => msbBits 16 w.toNat) := by
      conv => lhs; rw [split]
      rw [List.flatMap_append, List.flatMap_cons]
    rw [h, bits_of_words]
    simp only [List.append_assoc]
  · rw [List.length_append, hs, length_words, List.length_take, Nat.min_eq_left hj.le]

/-- A reply built as the format gives: its length, its check and its words (R64). -/
theorem replyFrame_spec {echo : Byte} {status : Nat} {words : List StationWord} (hw : words.length ≤ 16) (hs : status < 8) :
    let bits := replyFrame echo status words
    checkGood bits = true ∧ bits.length = 32 + 16 * words.length ∧ replyEcho bits = echo ∧ replyStatus bits = status ∧
      replyCount bits = words.length ∧ replyWords bits = words := by
  intro bits
  have body : bits = msbBits 8 echo.toNat ++ msbBits 3 status ++ msbBits 5 words.length ++
      ((words.flatMap fun w => msbBits 16 w.toNat) ++ msbBits 16 (checkOf (msbBits 8 echo.toNat ++ msbBits 3 status ++
        msbBits 5 words.length ++ words.flatMap fun w => msbBits 16 w.toNat)).toNat) := by
    simp [bits, replyFrame]
  obtain ⟨he, hst, hcount⟩ := reply_fields body hs (by omega)
  refine ⟨checkGood_append _, ?_, he, hst, hcount, ?_⟩
  · rw [body]
    simp only [List.length_append, msbBits_length, length_words]
    omega
  · rw [replyWords, hcount]
    refine List.ext_getElem (by simp) fun j h1 h2 => ?_
    have word := frameField_word (start := 16) body (by simp) (List.getElem?_eq_getElem h2)
    simp [word]

section
variable {sequence : Byte} {inCount : Nat} {bits : List Bool}

theorem judgeReply_badCheck (h : checkGood bits = false) : judgeReply sequence inCount bits = .badCheck := if_pos h

theorem judgeReply_malformed (h : checkGood bits = true)
    (hm : 2 < replyStatus bits ∨ 16 < replyCount bits ∨ bits.length ≠ 32 + 16 * replyCount bits ∨
      (replyStatus bits ≠ 0 ∧ replyCount bits ≠ 0)) : judgeReply sequence inCount bits = .badReply := by
  rw [judgeReply, if_neg (by simp [h]), if_pos hm]

/-- A well-formed reply with a good check is judged by its echo, its status and its count, in this order (R67). -/
theorem judgeReply_wellFormed (h : checkGood bits = true)
    (hm : ¬ (2 < replyStatus bits ∨ 16 < replyCount bits ∨ bits.length ≠ 32 + 16 * replyCount bits ∨
      (replyStatus bits ≠ 0 ∧ replyCount bits ≠ 0))) :
    judgeReply sequence inCount bits =
      if replyEcho bits ≠ sequence then .badReply
      else if replyStatus bits = 1 then .stationBusy
      else if replyStatus bits = 2 then .stationFault
      else if replyCount bits ≠ inCount then .badReply
      else .done := by
  rw [judgeReply, if_neg (by simp [h]), if_neg hm]

end

/-- The judgment of a reply built as the format gives, with no words where the station is BUSY or at FAULT. -/
theorem judgeReply_replyFrame {echo sequence : Byte} {inCount status : Nat} {words : List StationWord}
    (hw : words.length ≤ 16) (hs : status ≤ 2) (h0 : status = 0 ∨ words = []) :
    judgeReply sequence inCount (replyFrame echo status words) =
      if echo ≠ sequence then .badReply
      else if status = 1 then .stationBusy
      else if status = 2 then .stationFault
      else if words.length ≠ inCount then .badReply
      else .done := by
  obtain ⟨good, length, hecho, hst, hcount, -⟩ := replyFrame_spec (echo := echo) hw (by omega : status < 8)
  have formed : ¬ (2 < status ∨ 16 < words.length ∨ 32 + 16 * words.length ≠ 32 + 16 * words.length ∨
      (status ≠ 0 ∧ words.length ≠ 0)) := by
    rintro (h | h | h | ⟨h1, h2⟩)
    · omega
    · omega
    · exact h rfl
    · exact h0.elim h1 fun hn => h2 (by simp [hn])
  have judged := judgeReply_wellFormed (sequence := sequence) (inCount := inCount) good
    (by rw [hst, hcount, length]; exact formed)
  rw [judged, hecho, hst, hcount]

/-- Settles O29: the cells give back the bits, the fields of a well-formed reply decide its judgment, and the check finds one
inverted bit. -/
theorem repliesAreJudgedByTheirFormat : Obligations.RepliesAreJudgedByTheirFormat := by
  unfold Obligations.RepliesAreJudgedByTheirFormat
  refine ⟨replyOf_lineCells, fun cells h => if_neg fun hc => h hc.1, fun n m words hw => ⟨?_, ?_, ?_, ?_, ?_, ?_, ?_⟩, ?_, ?_,
    fun n i bits h => judgeReply_badCheck h, fun bits h => ?_, fun bits k b hg hb => checkGood_set hg hb⟩
  · exact (replyOf_lineCells _ 4).trans (if_pos rfl)
  · simp [judgeReply_replyFrame hw (by omega : 0 ≤ 2) (.inl rfl)]
  · exact (replyFrame_spec hw (by omega)).2.2.2.2.2
  · exact fun hn => by simp [judgeReply_replyFrame hw (by omega : 0 ≤ 2) (.inl rfl), hn]
  · exact fun i hi => by simp [judgeReply_replyFrame hw (by omega : 0 ≤ 2) (.inl rfl), hi.symm]
  · exact fun i => ⟨by simp [judgeReply_replyFrame], by simp [judgeReply_replyFrame]⟩
  · exact fun i hn => ⟨by simp [judgeReply_replyFrame, hn], by simp [judgeReply_replyFrame, hn]⟩
  · intro n m status count i rest hs hc body frame
    refine ⟨checkGood_append _, fun h => judgeReply_malformed (checkGood_append _) ?_⟩
    have shape : frame = msbBits 8 n.toNat ++ msbBits 3 status ++ msbBits 5 count ++
        (rest ++ msbBits 16 (checkOf body).toNat) := by simp [frame, body]
    obtain ⟨-, hst, hcount⟩ := reply_fields shape hs hc
    have length : frame.length = 32 + rest.length := by
      rw [shape]
      simp only [List.length_append, msbBits_length]
      omega
    show 2 < replyStatus frame ∨ 16 < replyCount frame ∨ frame.length ≠ 32 + 16 * replyCount frame ∨ _
    rw [hst, hcount, length]
    omega
  · intro n i bits hg hl
    exact judgeReply_malformed hg (by omega)
  · rw [← Bool.not_eq_true, checkGood_iff]
    omega

end Sys2Proof.Machine

namespace Sys2Proof.Machine

set_option Elab.async false

/-! ### One inverted bit in a frame -/

/-- A field that does not hold the inverted bit stays. -/
theorem frameField_set_outside {bits : List Bool} {start n i : Nat} {b : Bool} (h : i < start ∨ start + n ≤ i) :
    frameField (bits.set i b) start n = frameField bits start n := by
  unfold frameField
  congr 1
  refine List.map_congr_left fun j hj => ?_
  have hj' := List.mem_range.1 hj
  rw [List.getD_eq_getElem?_getD, List.getD_eq_getElem?_getD, List.getElem?_set_ne (by omega)]

/-- A field that holds the inverted bit changes. -/
theorem frameField_set_inside {bits : List Bool} {start n i : Nat} {b : Bool} (hl : start + n ≤ bits.length)
    (hs : start ≤ i) (hn : i < start + n) (hb : bits[i]? = some b) :
    frameField (bits.set i (!b)) start n ≠ frameField bits start n := by
  rw [frameField_eq (by simpa using hl), frameField_eq hl]
  intro h
  have same := bitsValue_injective (by simp) h
  have at_i := congrArg (·[i - start]?) same
  have hi : i < bits.length := by omega
  have place : start + (i - start) = i := by omega
  have inside : i - start < n := by omega
  simp only [List.getElem?_take_of_lt inside, List.getElem?_drop, place, List.getElem?_set_self hi, hb,
    Option.some.injEq] at at_i
  cases b <;> simp at at_i

/-! ### The beacon (R100, R101) -/

/-- Of any frame the first condition of R101 that applies is given, for a matrix of `2 ^ k` cycles. -/
theorem beaconFault_eq (k bm : Nat) (bits : List Bool) :
    beaconFault (2 ^ k) bm bits =
      if ¬ (bits.length = 61 ∧ frameField bits 0 8 = 0b01010101 ∧ frameField bits 58 3 = 0b101) then some 1
      else if frameField bits 42 16 ≠ (checkOf ((bits.drop 8).take 34)).toNat then some 2
      else if frameField bits 22 3 ≠ k then some 3
      else if frameField bits 26 16 ≠ bm then some 4
      else if 2 ^ k ≤ frameField bits 16 6 then some 5
      else none := by
  unfold beaconFault
  rw [Nat.log2_two_pow]
  simp only [not_and_or, ne_eq]

section
variable (rank unit count k bm : Nat) (restart : Bool)

@[simp] theorem beaconBody_length : (beaconBody rank unit count (2 ^ k) restart bm).length = 34 := by simp [beaconBody]

@[simp] theorem beaconBits_length : (beaconBits rank unit count (2 ^ k) restart bm).length = 61 := by simp [beaconBits]

/-- The covered bits of a beacon as sent. -/
theorem beaconBits_covered :
    ((beaconBits rank unit count (2 ^ k) restart bm).drop 8).take 34 = beaconBody rank unit count (2 ^ k) restart bm := by
  simp only [beaconBits, List.append_assoc]
  rw [List.drop_left' (by simp), List.take_left' (by simp)]

/-- The patterns and the check of a beacon as sent. -/
theorem beaconBits_frame :
    let bits := beaconBits rank unit count (2 ^ k) restart bm
    frameField bits 0 8 = 0b01010101 ∧ frameField bits 58 3 = 0b101 ∧
      frameField bits 42 16 = (checkOf ((bits.drop 8).take 34)).toNat := by
  intro bits
  have covered : (bits.drop 8).take 34 = _ := beaconBits_covered rank unit count k bm restart
  rw [covered]
  refine ⟨?_, ?_, ?_⟩
  · refine frameField_msbBits (front := []) (rest := bits.drop 8) ?_ rfl (by omega)
    simp [bits, beaconBits]
  · refine frameField_msbBits (rest := []) (front := msbBits 8 0b01010101 ++ (beaconBody rank unit count (2 ^ k) restart bm ++
      msbBits 16 (checkOf (beaconBody rank unit count (2 ^ k) restart bm)).toNat)) ?_ (by simp) (by omega)
    simp [bits, beaconBits]
  · refine frameField_msbBits (rest := msbBits 3 0b101)
      (front := msbBits 8 0b01010101 ++ beaconBody rank unit count (2 ^ k) restart bm) ?_ (by simp) (BitVec.isLt _)
    simp [bits, beaconBits]

variable {rank unit count k bm}

/-- The fields of a beacon as sent (section 11.5). -/
theorem beaconBits_fields (hr : rank < 8) (hu : unit < 32) (hc : count < 64) (hk : k < 8) (hb : bm < 65536) :
    let bits := beaconBits rank unit count (2 ^ k) restart bm
    frameField bits 8 3 = rank ∧ frameField bits 11 5 = unit ∧ frameField bits 16 6 = count ∧
      frameField bits 22 3 = k ∧ frameField bits 26 16 = bm ∧ bits.getD 25 false = restart ∧
      frameField bits 25 1 = if restart then 1 else 0 := by
  intro bits
  have shape : bits = msbBits 8 0b01010101 ++ (msbBits 3 rank ++ (msbBits 5 unit ++ (msbBits 6 count ++ (msbBits 3 k ++
      ([restart] ++ (msbBits 16 bm ++
        (msbBits 16 (checkOf (beaconBody rank unit count (2 ^ k) restart bm)).toNat ++ msbBits 3 0b101))))))) := by
    simp [bits, beaconBits, beaconBody, Nat.log2_two_pow]
  have flag : bits.getD 25 false = restart := by
    rw [shape]
    simp
  refine ⟨?_, ?_, ?_, ?_, ?_, flag, ?_⟩
  · exact frameField_msbBits shape (by simp) hr
  · exact frameField_msbBits (front := msbBits 8 0b01010101 ++ msbBits 3 rank) (by rw [shape]; simp only [List.append_assoc]; rfl)
      (by simp) hu
  · exact frameField_msbBits (front := msbBits 8 0b01010101 ++ msbBits 3 rank ++ msbBits 5 unit)
      (by rw [shape]; simp only [List.append_assoc]; rfl) (by simp) hc
  · exact frameField_msbBits (front := msbBits 8 0b01010101 ++ msbBits 3 rank ++ msbBits 5 unit ++ msbBits 6 count)
      (by rw [shape]; simp only [List.append_assoc]; rfl) (by simp) hk
  · exact frameField_msbBits
      (front := msbBits 8 0b01010101 ++ msbBits 3 rank ++ msbBits 5 unit ++ msbBits 6 count ++ msbBits 3 k ++ [restart])
      (by rw [shape]; simp only [List.append_assoc]; rfl) (by simp) hb
  · simp only [frameField, List.range_one, List.map_cons, List.map_nil, Nat.add_zero, flag]
    cases restart <;> rfl

/-- One inverted bit of a beacon is found by its patterns or by its check (R101). -/
theorem beaconFault_set {i : Nat} {b : Bool} (bm' k' : Nat)
    (hi : (beaconBits rank unit count (2 ^ k) restart bm)[i]? = some b) :
    beaconFault (2 ^ k') bm' ((beaconBits rank unit count (2 ^ k) restart bm).set i (!b)) =
      some (if 8 ≤ i ∧ i < 58 then 2 else 1) := by
  obtain ⟨start, ending, check⟩ := beaconBits_frame rank unit count k bm restart
  have length := beaconBits_length rank unit count k bm restart
  generalize beaconBits rank unit count (2 ^ k) restart bm = bits at *
  have lt : i < 61 := length ▸ (List.getElem?_eq_some_iff.1 hi).1
  rw [beaconFault_eq, List.length_set]
  by_cases inner : 8 ≤ i ∧ i < 58
  · rw [if_pos inner, frameField_set_outside (by omega), start, frameField_set_outside (by omega), ending,
      if_neg (by simp [length]), if_pos]
    by_cases body : i < 42
    · rw [frameField_set_outside (by omega), check, List.drop_set, if_neg (by omega), List.take_set]
      have covered : ((bits.drop 8).take 34)[i - 8]? = some b := by
        rw [List.getElem?_take_of_lt (by omega), List.getElem?_drop, ← hi]
        congr 1
        omega
      exact fun h => checkOf_set_ne covered (BitVec.eq_of_toNat_eq h.symm)
    · have covered : ((bits.set i (!b)).drop 8).take 34 = (bits.drop 8).take 34 := by
        rw [List.drop_set, if_neg (by omega), List.take_set_of_le (by omega)]
      rw [covered, ← check]
      exact frameField_set_inside (by omega) (by omega) (by omega) hi
  · rw [if_neg inner, if_pos]
    by_cases low : i < 8
    · have changed := frameField_set_inside (start := 0) (n := 8) (by omega) (by omega) (by omega) hi
      exact fun h => changed (h.2.1.trans start.symm)
    · have changed := frameField_set_inside (start := 58) (n := 3) (by omega) (by omega) (by omega) hi
      exact fun h => changed (h.2.2.trans ending.symm)

end

/-- Settles O41: the fields of a beacon as sent, and the conditions of R101 in order. -/
theorem beaconSentIsBeaconReceived : Obligations.BeaconSentIsBeaconReceived := by
  unfold Obligations.BeaconSentIsBeaconReceived
  refine ⟨fun rank unit count k bm k' bm' restart hr hu hk hk' hc hb hb' => ?_, fun k bm bits hk => ?_⟩
  · have hcount : count < 64 := hc.trans_le (Nat.pow_le_pow_right (n := 2) (by omega) hk)
    intro bits
    obtain ⟨start, ending, check⟩ := beaconBits_frame rank unit count k bm restart
    obtain ⟨h8, h11, h16, h22, h26, flag, h25⟩ := beaconBits_fields restart hr hu hcount (by omega : k < 8) hb
    have length : bits.length = 61 := beaconBits_length rank unit count k bm restart
    have framed : ¬ ¬ (bits.length = 61 ∧ frameField bits 0 8 = 0b01010101 ∧ frameField bits 58 3 = 0b101) :=
      not_not.2 ⟨length, start, ending⟩
    refine ⟨length, ?_, h8, h11, h16, flag, start, h8, h11, h16, h22, h25, h26, check, ending, fun hn => ?_, fun hn => ?_,
      fun i b hi => beaconFault_set restart bm k hi⟩
    · rw [beaconFault_eq, if_neg framed, if_neg (not_not.2 check), if_neg (not_not.2 h22), if_neg (not_not.2 h26),
        if_neg (Nat.not_le.2 (h16.symm ▸ hc))]
    · rw [beaconFault_eq, if_neg framed, if_neg (not_not.2 check), if_pos (h22.symm ▸ hn.symm)]
    · rw [beaconFault_eq, if_neg framed, if_neg (not_not.2 check), if_neg (not_not.2 h22), if_pos (h26.symm ▸ hn.symm)]
  · intro frame check fault
    have reason : fault = _ := beaconFault_eq k bm bits
    refine ⟨fun h => ?_, fun h1 h2 => ?_, fun h1 h2 h3 => ?_, fun h1 h2 h3 h4 => ?_, fun h1 h2 h3 h4 h5 => ?_,
      fun h1 h2 h3 h4 h5 => ?_⟩
    · rw [reason, if_pos h]
    · rw [reason, if_neg (not_not.2 h1), if_pos h2]
    · rw [reason, if_neg (not_not.2 h1), if_neg (not_not.2 h2), if_pos h3]
    · rw [reason, if_neg (not_not.2 h1), if_neg (not_not.2 h2), if_neg (not_not.2 h3), if_pos h4]
    · rw [reason, if_neg (not_not.2 h1), if_neg (not_not.2 h2), if_neg (not_not.2 h3), if_neg (not_not.2 h4), if_pos h5]
    · rw [reason, if_neg (not_not.2 h1), if_neg (not_not.2 h2), if_neg (not_not.2 h3), if_neg (not_not.2 h4),
        if_neg (Nat.not_le.2 h5)]

/-! ### The request (R63, R176) -/

/-- End cells each invert the level before them, from the cell they follow on. -/
theorem endCells_chain (c : LineCell) (k j : Nat) (hj : j < k) :
    ∃ d, (c :: endCells c.2 k)[j]? = some d ∧ (c :: endCells c.2 k)[j + 1]? = some (!d.2, !d.2) := by
  induction k generalizing c j with
  | zero => omega
  | succ k ih =>
    cases j with
    | zero => exact ⟨c, rfl, rfl⟩
    | succ j =>
      obtain ⟨d, h1, h2⟩ := ih (!c.2, !c.2) j (by omega)
      exact ⟨d, h1, h2⟩

theorem Kind.code_lt (k : Kind) : k.code < 16 := by cases k <;> decide

/-- A request has the layout of section 11.5. -/
theorem requestCells_IsRequest {kind : Kind} {n : Byte} {words : List StationWord} {inCount : Nat}
    (hw : words.length ≤ 16) (hi : inCount ≤ 16) : IsRequest (requestCells kind n words inCount) kind n words inCount := by
  unfold IsRequest
  intro m bits
  have body_length : (requestBody kind n words inCount).length = 22 + m := by
    simp only [requestBody, List.length_append, msbBits_length, length_words, m]
  have bits_length : (requestBits kind n words inCount).length = 54 + m := by
    simp only [requestBits, List.length_append, msbBits_length, lanePattern, body_length]
    omega
  have data : (requestCells kind n words inCount).take (54 + m) = (requestBits kind n words inCount).map dataCell := by
    rw [requestCells, lineCells, List.take_left' (by simp [bits_length])]
  have bits_eq : bits = requestBits kind n words inCount := by
    simp only [bits]
    rw [data, List.map_map]
    exact List.map_id _
  have shape : bits = lanePattern ++ (msbBits 4 kind.code ++ (msbBits 8 n.toNat ++ (msbBits 5 words.length ++
      (msbBits 5 inCount ++ ((words.flatMap fun w => msbBits 16 w.toNat) ++
        msbBits 16 (checkOf (requestBody kind n words inCount)).toNat))))) := by
    rw [bits_eq]
    simp [requestBits, requestBody]
  have covered : (bits.drop 16).take (22 + m) = requestBody kind n words inCount := by
    rw [bits_eq, requestBits, List.append_assoc, List.drop_left' (by simp [lanePattern]),
      List.take_left' body_length]
  refine ⟨?_, fun c hc => ?_, ?_, ?_, ?_, ?_, ?_, fun j w hj => ?_, ?_, fun j hj => ?_⟩
  · simp only [requestCells, lineCells, List.length_append, List.length_map, endCells_length, bits_length, m]
    omega
  · rw [data] at hc
    obtain ⟨b, -, rfl⟩ := List.mem_map.1 hc
    rfl
  · exact frameField_msbBits (front := []) shape rfl (by omega)
  · exact frameField_msbBits shape (by simp [lanePattern]) kind.code_lt
  · exact frameField_msbBits (front := lanePattern ++ msbBits 4 kind.code) (by rw [shape]; simp only [List.append_assoc]; rfl)
      (by simp [lanePattern]) n.isLt
  · exact frameField_msbBits (front := lanePattern ++ msbBits 4 kind.code ++ msbBits 8 n.toNat)
      (by rw [shape]; simp only [List.append_assoc]; rfl) (by simp [lanePattern]) (by omega)
  · exact frameField_msbBits (front := lanePattern ++ msbBits 4 kind.code ++ msbBits 8 n.toNat ++ msbBits 5 words.length)
      (by rw [shape]; simp only [List.append_assoc]; rfl) (by simp [lanePattern]) (by omega)
  · exact frameField_word (front := lanePattern ++ msbBits 4 kind.code ++ msbBits 8 n.toNat ++ msbBits 5 words.length ++
      msbBits 5 inCount) (by rw [shape]; simp only [List.append_assoc]; rfl) (by simp [lanePattern]) hj
  · rw [covered]
    refine frameField_msbBits (front := lanePattern ++ requestBody kind n words inCount) (rest := []) ?_ ?_ (BitVec.isLt _)
    · rw [bits_eq, requestBits, List.append_nil]
    · simp only [List.length_append, lanePattern, msbBits_length, body_length, m]
      omega
  · have last : requestBits kind n words inCount ≠ [] := by
      rw [← List.length_pos_iff, bits_length]
      omega
    have cells : requestCells kind n words inCount =
        (requestBits kind n words inCount).dropLast.map dataCell ++
          (dataCell ((requestBits kind n words inCount).getLast last) ::
            endCells (dataCell ((requestBits kind n words inCount).getLast last)).2 6) := by
      rw [requestCells, lineCells, List.getLastD_eq_getLast?, List.getLast?_eq_some_getLast last]
      conv => lhs; arg 1; rw [← List.dropLast_append_getLast last]
      simp [dataCell]
    have front : ((requestBits kind n words inCount).dropLast.map dataCell).length = 53 + m := by
      simp [bits_length]
    obtain ⟨d, h1, h2⟩ := endCells_chain (dataCell ((requestBits kind n words inCount).getLast last)) 6 j hj
    refine ⟨d, ?_, ?_⟩
    · rw [cells, List.getElem?_append_right (by omega), front, ← h1]
      congr 1
      omega
    · rw [cells, List.getElem?_append_right (by omega), front, ← h2]
      congr 1
      omega

end Sys2Proof.Machine

namespace Sys2Proof.Machine

set_option Elab.async false

/-! ### The walk through the table (R28) -/

theorem Entry.fires_iff {e : Entry} {count : Nat} : e.fires count = true ↔ count % e.period = e.phase := by
  simp [Entry.fires]

/-- The next entry that fires stands at or after the start of the search, and none between fires. -/
theorem nextFiring_between {table : List ActiveEntry} {count start k : Nat} {b : ActiveEntry} (hs : start ≤ k)
    (hk : k < nextFiring table count start) (hb : table[k]? = some b) : b.entry.fires count = false := by
  unfold nextFiring at hk
  have later : k - start < (table.drop start).findIdx fun a => a.entry.fires count := by omega
  have at_k : (table.drop start)[k - start]? = some b := by
    rw [List.getElem?_drop, ← hb]
    congr 1
    omega
  obtain ⟨h, rfl⟩ := List.getElem?_eq_some_iff.1 at_k
  exact List.not_of_lt_findIdx later

theorem start_le_nextFiring (table : List ActiveEntry) (count start : Nat) : start ≤ nextFiring table count start :=
  Nat.le_add_right _ _

/-- The entry that the search stops at fires. -/
theorem nextFiring_fires {table : List ActiveEntry} {count start : Nat} {a : ActiveEntry}
    (h : table[nextFiring table count start]? = some a) : a.entry.fires count = true := by
  unfold nextFiring at h
  rw [← List.getElem?_drop] at h
  obtain ⟨hl, rfl⟩ := List.getElem?_eq_some_iff.1 h
  exact List.findIdx_getElem (p := fun a : ActiveEntry => a.entry.fires count)

/-- The first entry from the start on that fires is the one the search stops at. -/
theorem nextFiring_eq {table : List ActiveEntry} {count start i : Nat} {a : ActiveEntry} (hs : start ≤ i)
    (ha : table[i]? = some a) (hf : a.entry.fires count = true)
    (hn : ∀ k b, start ≤ k → k < i → table[k]? = some b → b.entry.fires count = false) :
    nextFiring table count start = i := by
  have hl := (List.getElem?_eq_some_iff.1 ha).1
  have found : ((table.drop start).findIdx fun a => a.entry.fires count) = i - start := by
    rw [List.findIdx_eq (by simp; omega)]
    have place : start + (i - start) = i := by omega
    refine ⟨?_, fun j hj => ?_⟩
    · obtain ⟨_, h⟩ := List.getElem?_eq_some_iff.1 ha
      simp only [List.getElem_drop, place, h, hf]
    · simp only [List.getElem_drop]
      exact hn (start + j) _ (by omega) (by omega) (List.getElem?_eq_getElem _)
  unfold nextFiring
  omega

/-- The walk after a mark moves on, past no entry that fires (R28). -/
theorem State.passMark_cycle (s : State) (c : CycleInHand) :
    ∃ c', (s.passMark c).cycle = some c' ∧ c'.count = c.count ∧ c'.tag = c.tag ∧ c.position < c'.position ∧
      ∀ k b, c.position < k → k < c'.position → s.active[k]? = some b → c.count % b.entry.period ≠ b.entry.phase := by
  refine ⟨_, rfl, rfl, rfl, start_le_nextFiring _ _ _, fun k b h1 h2 hb hf => ?_⟩
  have silent := nextFiring_between (table := s.active) (count := c.count) (start := c.position + 1) h1 h2 hb
  rw [Entry.fires_iff.2 hf] at silent
  cases silent

/-- A mark is due for the first entry from the position on that fires, once cycle time has reached its mark (R28). -/
theorem State.markDue_of_first {s : State} {d : CycleInHand} {a : ActiveEntry} {i : Nat} (hd : s.dispatching = true)
    (hc : s.cycle = some d) (hs : d.position ≤ i) (ha : s.active[i]? = some a) (hf : a.entry.fires d.count = true)
    (hn : ∀ k b, d.position ≤ k → k < i → s.active[k]? = some b → b.entry.fires d.count = false)
    (hm : a.entry.mark ≤ s.sc.cycleTime) : s.markDue = some ({ d with position := i }, a) := by
  simp only [State.markDue, hd, hc, nextFiring_eq hs ha hf hn, ha, if_pos hm]

theorem State.markReached_none {s : State} (h : s.markDue = none) : s.markReached = s := by
  unfold State.markReached
  rw [h]

theorem State.markReached_marker {s : State} {c : CycleInHand} {a : ActiveEntry} (h : s.markDue = some (c, a))
    (hk : a.entry.kind = .marker) : s.markReached = (s.passMark c).postAll [s.markEvent c a.entry] := by
  have lane : a.entry.kind.isLane = false := by rw [hk]; rfl
  simp [State.markReached, h, lane]

theorem State.markReached_lane {s : State} {c : CycleInHand} {a : ActiveEntry} (h : s.markDue = some (c, a))
    (hk : a.entry.kind ≠ .marker) : s.markReached = (s.passMark c).actFor (s.firingOf c a.entry) a := by
  simp [State.markReached, h, Kind.isLane_iff.2 hk]

theorem State.dispatching_iff {s : State} : s.dispatching = true ↔ s.dev = .running ∧ s.sc.sync = .locked := by
  simp [State.dispatching]

/-- Settles O19: the search of the walk finds the first entry that fires, and a MARKER only posts. -/
theorem marksFallInTableOrder : Obligations.MarksFallInTableOrder := by
  unfold Obligations.MarksFallInTableOrder
  refine ⟨fun s => ⟨fun h => congrArg _ (State.markReached_none h), fun c a h => ?_, ?_, fun e count => Entry.fires_iff⟩,
    fun s c a h hk => ?_⟩
  · obtain ⟨hd, d, hc, rfl, ha, hm⟩ := State.markDue_some h
    obtain ⟨running, locked⟩ := State.dispatching_iff.1 hd
    exact ⟨running, locked, hm, nextFiring_fires ha, ha, d, hc, rfl, rfl, start_le_nextFiring _ _ _,
      fun i b h1 h2 hb => nextFiring_between h1 h2 hb⟩
  · intro d a i hd hl hc hs ha hf hn hm
    refine State.markDue_of_first (State.dispatching_iff.2 ⟨hd, hl⟩) hc hs ha (Entry.fires_iff.2 hf) ?_ hm
    exact fun k b h1 h2 hb => Bool.eq_false_iff.2 fun h => hn k b h1 h2 hb (Entry.fires_iff.1 h)
  · obtain ⟨c', hc, rest⟩ := s.passMark_cycle c
    refine ⟨c', ?_, rest⟩
    have pass : s.passMark c = { s with cycle := some c' } := by
      rw [← hc]
      rfl
    rw [← pass]
    exact congrArg _ (State.markReached_marker h hk)

/-! ### A lane entry at its mark (R30, R31, R35) -/

section
variable {s : State} {f : Firing} {a : ActiveEntry}

theorem State.actFor_disabled (hd : a.run.disabled = true) :
    s.actFor f a = (s.work.settle f .disabled 0 false).finish := by
  rw [State.actFor, if_pos hd]

theorem State.actFor_refused {v : Verdict} (hd : a.run.disabled = false) (hc : s.checkMark a = .error v) :
    s.actFor f a = (s.work.settle f v 0 false).finish := by
  simp [State.actFor, hd, hc]

theorem State.actFor_started {words : List StationWord} {t : State} (hd : a.run.disabled = false)
    (hc : s.checkMark a = .ok (words, t)) : s.actFor f a = t.startExchange f a.entry words := by
  simp [State.actFor, hd, hc]

theorem State.checkMark_notReady (hr : s.lanes[a.entry.lane].state ≠ .ready) :
    s.checkMark a = .error .laneNotReady := if_pos hr

section
variable (hr : s.lanes[a.entry.lane].state = .ready)
include hr

theorem State.checkMark_busy (hi : s.lanes[a.entry.lane].inFlight ≠ none) : s.checkMark a = .error .laneBusy := by
  rw [State.checkMark, if_neg (not_not.2 hr), if_pos (Option.isSome_iff_ne_none.2 hi)]

variable (hi : s.lanes[a.entry.lane].inFlight = none)
include hi

/-- On an idle READY lane the reservation and the take decide (R31). -/
theorem State.checkMark_idle :
    s.checkMark a = (s.reserveFor a.entry).bind fun t => t.takeFor a := by
  rw [State.checkMark, if_neg (not_not.2 hr), if_neg (by rw [hi]; exact Bool.false_ne_true)]
  cases s.reserveFor a.entry <;> rfl

theorem State.checkMark_noSlot {v : Verdict} (hk : a.entry.kind.receives = true)
    (hs : (s.rings[a.entry.ring]).reserve = .error v) : s.checkMark a = .error v := by
  simp only [State.checkMark_idle hr hi, State.reserveFor, hk, if_true, hs, Except.bind]

theorem State.checkMark_noValues (hk : a.entry.kind.sends = true)
    (hs : a.entry.kind.receives = true → ∃ r, (s.rings[a.entry.ring]).reserve = .ok r)
    (ht : a.run.take a.entry.mode = none) : s.checkMark a = .error .noValues := by
  rw [State.checkMark_idle hr hi, State.reserveFor]
  cases hv : a.entry.kind.receives with
  | false => simp only [Bool.false_eq_true, if_false, State.takeFor, hk, if_true, ht, Except.bind]
  | true =>
    obtain ⟨r, hr⟩ := hs hv
    simp only [if_true, hr, State.takeFor, hk, ht, Except.bind]

/-- An entry that passes its checks: the slot is reserved and the set taken (R31, R33). -/
theorem State.checkMark_passes {words : List StationWord} {run : Runtime}
    (hs : a.entry.kind.receives = true → ∃ r, (s.rings[a.entry.ring]).reserve = .ok r)
    (ht : a.entry.kind.sends = true → a.run.take a.entry.mode = some (words, run))
    (hn : a.entry.kind.sends = false → words = []) :
    ∃ t u, s.reserveFor a.entry = .ok t ∧
      s.checkMark a = .ok (words, u) ∧
      u = if a.entry.kind.sends then t.updateRun a.entry.handle fun _ => run else t := by
  rw [State.checkMark_idle hr hi]
  have reserved : ∃ t, s.reserveFor a.entry = .ok t := by
    unfold State.reserveFor
    cases hv : a.entry.kind.receives with
    | false => exact ⟨s, rfl⟩
    | true =>
      obtain ⟨r, hr⟩ := hs hv
      exact ⟨_, by rw [if_pos rfl, hr]⟩
  obtain ⟨t, hv⟩ := reserved
  refine ⟨t, _, hv, ?_, rfl⟩
  rw [hv]
  cases hk : a.entry.kind.sends with
  | false => simp [Except.bind, State.takeFor, hk, hn hk]
  | true => simp [Except.bind, State.takeFor, hk, ht hk]

end
end

end Sys2Proof.Machine

namespace Sys2Proof.Machine

set_option Elab.async false

/-! ### An outcome at a mark (R30, R31, R35) -/

/-- An outcome at a mark is settled for a firing that was not started: tables and Health Monitor change, and events are
posted (R35, R37). -/
theorem Work.settle_refused (s : State) (f : Firing) (o : Verdict) :
    ∃ e os n, (s.work.settle f o 0 false).finish =
      { s with active := s.onReached f fun a => a.run.scored o, hm := (s.judged f o false).hm, ew := e, outputs := os, free := n } := by
  obtain ⟨e, os, n, h⟩ := (s.work.settle f o 0 false).finish_shape
  rw [Work.settle_spec] at h ⊢
  exact ⟨e, os, n, h⟩

/-- The first failing check gives the outcome that is settled (R31). -/
theorem State.actFor_settles {s : State} {f : Firing} {a : ActiveEntry} {o : Verdict}
    (h : (a.run.disabled = true ∧ o = .disabled) ∨
      (a.run.disabled = false ∧
        (((s.lanes[a.entry.lane]).state ≠ .ready ∧ o = .laneNotReady) ∨
          ((s.lanes[a.entry.lane]).state = .ready ∧ (s.lanes[a.entry.lane]).inFlight ≠ none ∧ o = .laneBusy) ∨
          ((s.lanes[a.entry.lane]).state = .ready ∧ (s.lanes[a.entry.lane]).inFlight = none ∧
            (((a.entry.kind = .fetch ∨ a.entry.kind = .swap) ∧ (s.rings[a.entry.ring]).reserve = .error o) ∨
              ((a.entry.kind = .send ∨ (a.entry.kind = .swap ∧ ∃ r, (s.rings[a.entry.ring]).reserve = .ok r)) ∧
                a.run.take a.entry.mode = none ∧ o = .noValues)))))) :
    s.actFor f a = (s.work.settle f o 0 false).finish := by
  obtain ⟨hd, rfl⟩ | ⟨hd, ⟨hr, rfl⟩ | ⟨hr, hi, rfl⟩ | ⟨hr, hi, ⟨hk, hs⟩ | ⟨hk, ht, rfl⟩⟩⟩ := h
  · exact State.actFor_disabled hd
  · exact State.actFor_refused hd (State.checkMark_notReady hr)
  · exact State.actFor_refused hd (State.checkMark_busy hr hi)
  · exact State.actFor_refused hd (State.checkMark_noSlot hr hi (Kind.receives_iff.2 hk) hs)
  · refine State.actFor_refused hd (State.checkMark_noValues hr hi (Kind.sends_iff.2 (hk.imp id And.left)) (fun hv => ?_) ht)
    obtain hk | ⟨-, hs⟩ := hk
    · rw [hk] at hv
      cases hv
    · exact hs

theorem State.dispatching_not_fatal {s : State} (h : s.dispatching = true) : s.dev ≠ .fatal := by
  rw [(State.dispatching_iff.1 h).1]
  nofun

/-- Settles O20: the outcome of the first failing check is settled in the state whose walk has moved on. -/
theorem firstFailingCheckGivesTheOutcome : Obligations.FirstFailingCheckGivesTheOutcome := by
  unfold Obligations.FirstFailingCheckGivesTheOutcome
  intro s c a o h hk law hcheck f
  obtain ⟨hd, -⟩ := State.markDue_some h
  have act : s.markReached = ((s.passMark c).work.settle f o 0 false).finish :=
    (State.markReached_lane h hk).trans (State.actFor_settles (s := s.passMark c) hcheck)
  obtain ⟨e, os, n, final⟩ := Work.settle_refused (s.passMark c) f o
  have settles := Work.settle_finish_Settles (w := (s.passMark c).work) law.2.2 (State.dispatching_not_fatal hd) rfl
    f o 0 false
  have writes := Work.finish_outputs ((s.passMark c).work.settle f o 0 false)
    (by rw [Work.settle_spec]; exact State.dispatching_not_fatal hd)
  refine ⟨_, congrArg Host.Outcome.next act, ?_, ?_, ?_, ?_, ?_, ?_, ?_, ?_, ?_, ?_⟩
  · rw [final]; rfl
  · rw [final]; rfl
  · rw [final]; rfl
  · rw [final]; rfl
  · rw [final]; rfl
  · rw [final]; rfl
  · rw [final]
    simp [State.onReached, f, State.passMark]
  · exact settles.of_before rfl rfl rfl rfl rfl
  · refine writes.trans ?_
    rw [Work.settle_spec]
    rfl
  · rw [final]
    exact s.passMark_cycle c

/-! ### An exchange started at a mark (R31, R34, R63) -/

/-- A reservation granted is one more reserved slot (R85). -/
theorem InRing.reserve_ok {x r : InRing} (h : x.reserve = .ok r) : r = { x with reserved := x.reserved + 1 } := by
  unfold InRing.reserve at h
  split_ifs at h
  cases h
  rfl

/-- An entry of a table that holds each handle once is the one of its handle (R3). -/
theorem State.entry_of_handle {s : State} (hn : (s.activeEntries.map Entry.handle).Nodup) {a b : ActiveEntry}
    (ha : a ∈ s.active) (hb : b ∈ s.active) (h : b.entry.handle = a.entry.handle) : b = a := by
  rw [State.activeEntries, List.map_map] at hn
  exact List.inj_on_of_nodup_map hn hb ha h

/-- What the reservation at a mark changes: the ring of a FETCH or SWAP (R33, R85). -/
theorem State.reserveFor_ok {s t : State} {e : Entry} (h : s.reserveFor e = .ok t) :
    t = if e.kind.receives then s.setRing e.ring { s.rings[e.ring] with reserved := (s.rings[e.ring]).reserved + 1 } else s := by
  unfold State.reserveFor at h
  split at h
  · rename_i hk
    rw [if_pos hk]
    split at h
    · rename_i r hr
      cases h
      rw [InRing.reserve_ok hr]
    · cases h
  · rename_i hk
    rw [if_neg hk]
    cases h
    rfl

/-- A record given back to the one entry of its handle changes nothing. -/
theorem map_own_run {s : State} (hn : (s.activeEntries.map Entry.handle).Nodup) {a : ActiveEntry} (ha : a ∈ s.active) :
    (s.active.map fun b => if b.entry.handle = a.entry.handle then { b with run := a.run } else b) = s.active := by
  conv => rhs; rw [← List.map_id s.active]
  refine List.map_congr_left fun b hb => ?_
  split
  · rename_i h
    rw [State.entry_of_handle hn ha hb h]
    rfl
  · rfl

theorem State.startExchange_rings (s : State) (f : Firing) (e : Entry) (words : List StationWord) :
    (s.startExchange f e words).rings = s.rings := rfl

/-- Settles O21: the checks that pass leave the slot reserved and the set taken, and the request goes out. -/
theorem passingEntryStartsItsExchange : Obligations.PassingEntryStartsItsExchange := by
  unfold Obligations.PassingEntryStartsItsExchange
  refine ⟨?_, fun kind n words inCount hw hi => requestCells_IsRequest hw hi⟩
  intro s c a h hk law hd hr hi hs words run ht hn l f named
  obtain ⟨-, d, -, -, ha, -⟩ := State.markDue_some h
  have mem : a ∈ s.active := List.mem_of_getElem? ha
  have words_nil (k : a.entry.kind.sends = false) : words = [] ∧ run = a.run := by
    cases hkind : a.entry.kind <;> simp [hkind, Kind.sends] at hk k hn ⊢ <;> exact hn
  obtain ⟨t, u, ht', hc, hu⟩ := State.checkMark_passes (s := s.passMark c) (run := run) hr hi
    (fun k => hs (Kind.receives_iff.1 k)) (fun k => ht (Kind.sends_iff.1 k)) (fun k => (words_nil k).1)
  have slot := State.reserveFor_ok ht'
  have act : s.markReached = u.startExchange (s.firingOf c a.entry) a.entry words :=
    (State.markReached_lane h hk).trans (State.actFor_started hd hc)
  have rings : u.rings = if a.entry.kind.receives then
      s.rings.set a.entry.ring { s.rings[a.entry.ring] with reserved := (s.rings[a.entry.ring]).reserved + 1 }
      else s.rings := by
    rw [hu, slot]
    split <;> split <;> rfl
  have active : u.active = s.active.map fun b =>
      if b.entry.handle = a.entry.handle then { b with run := run } else b := by
    rw [hu, slot]
    cases hsend : a.entry.kind.sends with
    | true =>
      rw [if_pos rfl]
      split <;> rfl
    | false =>
      rw [if_neg Bool.false_ne_true, (words_nil hsend).2, map_own_run law.2.2 mem]
      split <;> rfl
  obtain ⟨lanes, outputs, hm, cycle, pairs, sc, ew, edit⟩ :
      u.lanes = s.lanes ∧ u.outputs = s.outputs ∧ u.hm = s.hm ∧ u.cycle = (s.passMark c).cycle ∧ u.pairs = s.pairs ∧
        u.sc = s.sc ∧ u.ew = s.ew ∧ u.edit = s.edit := by
    rw [hu, slot]
    split <;> split <;> exact ⟨rfl, rfl, rfl, rfl, rfl, rfl, rfl, rfl⟩
  refine ⟨_, congrArg Host.Outcome.next act, ?_, ?_, ?_, ?_, ?_, ?_, ?_, ?_, ?_, ?_⟩
  · simp [State.startExchange, State.sendRequest, lanes, l, f, State.firingOf]
  · intro m hm
    have other : (a.entry.lane : Nat) ≠ m := fun h => hm (Fin.ext h.symm)
    simp [State.startExchange, State.sendRequest, State.setLane, lanes, other]
  · simp [State.startExchange, State.sendRequest, State.emit, lanes, outputs, l]
  · intro hk
    rw [State.startExchange_rings, rings, if_pos (Kind.receives_iff.2 hk)]
    simp
  · intro hk
    rw [State.startExchange_rings, rings, if_neg]
    rw [Kind.receives_iff]
    rintro (h | h) <;> rw [h] at hk <;> simp at hk
  · intro r hr
    have other : (a.entry.ring : Nat) ≠ r := fun h => hr (Fin.ext h.symm)
    rw [State.startExchange_rings, rings]
    split
    · simp [other]
    · rfl
  · exact active
  · show u.hm.updateRecord _ _ = _
    rw [hm]
    rfl
  · show ∃ c', u.cycle = some c' ∧ _
    rw [cycle]
    exact s.passMark_cycle c
  · exact ⟨pairs, sc, ew, edit⟩

end Sys2Proof.Machine

/-! PROOFS. Records in host memory, the inbound rings, the Queue Engine, the Event Writer and the register window. -/

namespace Sys2Proof.Machine

set_option Elab.async false

/-! ### Fields of a record in host memory (chapter 11) -/

@[simp] theorem leBytes_length (n v : Nat) : (leBytes n v).length = n := by simp [leBytes]

theorem bytesField_congr {a b : List Byte} {i j n : Nat} (h : ∀ k < n, a.getD (i + k) 0 = b.getD (j + k) 0) :
    bytesField a i n = bytesField b j n := by
  unfold bytesField
  congr 1
  exact List.map_congr_left fun k hk => by rw [h k (List.mem_range.1 hk)]

/-- A field in the first of two parts of a record. -/
theorem bytesField_append_left {a b : List Byte} {i n : Nat} (h : i + n ≤ a.length) :
    bytesField (a ++ b) i n = bytesField a i n :=
  bytesField_congr fun k hk => by
    rw [List.getD_eq_getElem?_getD, List.getD_eq_getElem?_getD, List.getElem?_append_left (by omega)]

/-- A field in the second of two parts of a record. -/
theorem bytesField_append_right {a b : List Byte} {i n : Nat} (h : a.length ≤ i) :
    bytesField (a ++ b) i n = bytesField b (i - a.length) n :=
  bytesField_congr fun k hk => by
    rw [List.getD_eq_getElem?_getD, List.getD_eq_getElem?_getD, List.getElem?_append_right (by omega)]
    congr 2
    omega

/-- A number's bytes give it back, as far as they reach. -/
theorem bytesField_leBytes (n v : Nat) : bytesField (leBytes n v) 0 n = v % 256 ^ n := by
  have byte (j : Nat) (hj : j < n) : ((leBytes n v).getD (0 + j) 0).toNat = v / 256 ^ j % 256 := by
    have hl : j < (leBytes n v).length := by simpa using hj
    rw [Nat.zero_add, List.getD_eq_getElem?_getD, List.getElem?_eq_getElem hl]
    simp [leBytes, Nat.pow_mul]
  have digits (m : Nat) : ((List.range m).map fun j => v / 256 ^ j % 256 * 256 ^ j).sum = v % 256 ^ m := by
    induction m with
    | zero => simp [Nat.mod_one]
    | succ m ih =>
      rw [List.range_succ, List.map_append, List.sum_append, ih, Nat.mod_pow_succ]
      simp [Nat.mul_comm]
  rw [← digits n]
  unfold bytesField
  congr 1
  exact List.map_congr_left fun j hj => by rw [byte j (List.mem_range.1 hj)]

/-- A field of a record that reads a number written whole. -/
theorem bytesField_at {b front rest : List Byte} {i n v : Nat} (h : b = front ++ (leBytes n v ++ rest))
    (hi : front.length = i) : bytesField b i n = v % 256 ^ n := by
  rw [h, bytesField_append_right (by omega), hi, Nat.sub_self, bytesField_append_left (by simp), bytesField_leBytes]

theorem bytesField_take {b : List Byte} {i n k : Nat} (h : i + n ≤ k) : bytesField (b.take k) i n = bytesField b i n :=
  bytesField_congr fun j hj => by
    rw [List.getD_eq_getElem?_getD, List.getD_eq_getElem?_getD, List.getElem?_take_of_lt (by omega)]

/-! ### Settled outcomes of started firings (R37) -/

/-- A step that ends by settling the outcome of a started firing: what it settles, and what it leaves as it was. -/
theorem Work.settle_started {u : State} (hn : (u.activeEntries.map Entry.handle).Nodup) (hd : u.dev ≠ .fatal)
    (first : List Event) (f : Firing) (o : Verdict) (slot : Nat) :
    let t := (Work.settle ⟨u, first, []⟩ f o slot true).finish
    Settles u t f o slot true first ∧
      t = { u with active := t.active, hm := t.hm, pairs := t.pairs, ew := t.ew, outputs := t.outputs, free := t.free } := by
  refine ⟨Work.settle_finish_Settles (w := ⟨u, first, []⟩) hn hd rfl f o slot true, ?_⟩
  obtain ⟨e, os, n, h⟩ := (Work.settle ⟨u, first, []⟩ f o slot true).finish_shape
  obtain ⟨⟨ps, os', h'⟩, -⟩ := State.afterOutcome_spec hn f o true
  have state : (Work.settle ⟨u, first, []⟩ f o slot true).s = u.afterOutcome f o true := by
    rw [Work.settle_spec]
    rfl
  rw [state, h'] at h
  rw [h]
  split <;> rfl

/-- A firing that reaches no record changes none of the table (R21). -/
theorem Settled.active_detached {s t : State} {f : Firing} {o : Verdict} {started : Bool} (h : Settled s t f o started)
    (hf : f.attached = false) : t.active = s.active := by
  rw [h.1]
  simp [hf]

/-- A firing still attached reaches the record of its handle (R21, R52, R124). -/
theorem Settled.active_attached {s t : State} {f : Firing} {o : Verdict} (h : Settled s t f o true)
    (hf : f.attached = true) :
    t.active = s.active.map fun a =>
      if a.entry.handle = f.handle then
        { a with run := if f.kind = .send ∨ f.kind = .swap then (a.run.scored o).settled a.entry.mode
                        else a.run.scored o }
      else a := by
  rw [h.1]
  simp [hf]

/-! ### Reservations and slot writes (R85 to R89) -/

theorem InRing.reserve_inactive {r : InRing} (h : r.state ≠ .active) : r.reserve = .error .ringFault := if_pos h

theorem InRing.reserve_full {r : InRing} (ha : r.state = .active) (h : r.slotCount ≤ r.occupancy) :
    r.reserve = .error .noRoom := by
  rw [InRing.reserve, if_neg (not_not.2 ha), if_pos h]

theorem InRing.reserve_room {r : InRing} (ha : r.state = .active) (h : r.occupancy < r.slotCount) :
    r.reserve = .ok { r with reserved := r.reserved + 1 } := by
  rw [InRing.reserve, if_neg (not_not.2 ha), if_neg (Nat.not_le.2 h)]

/-- A reservation is granted on a ring with room alone (R85). -/
theorem InRing.reserve_ok_room {r q : InRing} (h : r.reserve = .ok q) : r.occupancy < r.slotCount := by
  unfold InRing.reserve at h
  split_ifs at h with ha hf
  exact Nat.not_le.1 hf

section
variable {s : State} {w : SlotWrite} {rest : List SlotWrite} {f : Firing}

theorem State.slotWriteStart_busy (hw : s.slotWriting = true) : s.slotWriteStart = s := by
  simp [State.slotWriteStart, hw]

variable (hs : s.serving = true) (hq : s.slotQueue = w :: rest) (hf : s.settlingFiring w.lane = some f)
include hs hq hf

theorem State.slotWriteStart_begins (hw : s.slotWriting = false) (ha : s.rings[f.ring].state = .active) :
    s.slotWriteStart = { s with
      slotWriting := true,
      outputs := .dmaWrite (s.rings[f.ring].base + BitVec.ofNat 64 (64 * s.rings[f.ring].position))
        (slotBytes s.rings[f.ring].lap f w.words) :: s.outputs } := by
  rw [Fin.getElem_fin] at ha
  simp [State.slotWriteStart, hs, hw, hq, hf, ha]

theorem State.slotWriteStart_faulted (hw : s.slotWriting = false) (ha : s.rings[f.ring].state ≠ .active) :
    s.slotWriteStart =
      (((({ s with slotQueue := rest }.returnSlot f).leaveLane w.lane).work).settle f .ringFault 0 true).finish := by
  rw [Fin.getElem_fin] at ha
  simp [State.slotWriteStart, hs, hw, hq, hf, ha]

theorem State.slotWriteEnd_ok (hw : s.slotWriting = true) :
    s.slotWriteEnd .ok = ((((({ s with slotQueue := rest, slotWriting := false }.leaveLane w.lane).setRing f.ring
      s.rings[f.ring].wrote).work).settle f .done s.rings[f.ring].position true).finish) := by
  simp [State.slotWriteEnd, hs, hw, hq, hf]

theorem State.slotWriteEnd_error (hw : s.slotWriting = true) :
    s.slotWriteEnd .error = (((((({ s with slotQueue := rest, slotWriting := false }.leaveLane w.lane).setRing f.ring
      { s.rings[f.ring].returnOne with state := .error }).work).post
        (f.ringFaultEvent s.rings[f.ring].position)).settle f .ringFault 0 true).finish) := by
  simp [State.slotWriteEnd, hs, hw, hq, hf]

end

/-- The words of a slot, two bytes each, zero beyond the last (section 11.4). -/
theorem bytesField_wordsBytes (words : List StationWord) (j : Nat) :
    bytesField (wordsBytes words ++ leBytes 32 0) (2 * j) 2 = (words.getD j 0).toNat := by
  induction words generalizing j with
  | nil =>
    have zero (k : Nat) : (leBytes 32 0).getD k 0 = 0 := by
      have all : leBytes 32 0 = List.replicate 32 0 := by decide
      rw [all, List.getD_eq_getElem?_getD, List.getElem?_replicate]
      split <;> rfl
    rw [show wordsBytes [] ++ leBytes 32 0 = leBytes 32 0 from rfl, bytesField]
    simp only [zero]
    rfl
  | cons w ws ih =>
    have split : wordsBytes (w :: ws) ++ leBytes 32 0 = leBytes 2 w.toNat ++ (wordsBytes ws ++ leBytes 32 0) := by
      simp [wordsBytes]
    rw [split]
    cases j with
    | zero =>
      rw [bytesField_append_left (by simp), Nat.mul_zero, bytesField_leBytes]
      exact Nat.mod_eq_of_lt w.isLt
    | succ j =>
      rw [bytesField_append_right (by rw [leBytes_length]; omega), leBytes_length, show 2 * (j + 1) - 2 = 2 * j by omega, ih]
      rfl

/-- The layout of a slot (section 11.4). -/
theorem slotBytes_spec (lap : Bool) (f : Firing) (words : List StationWord) :
    let b := slotBytes lap f words
    b.length = 64 ∧
      b.take 4 = [if lap then 1 else 0, BitVec.ofNat 8 f.handle, BitVec.ofNat 8 f.cycle, BitVec.ofNat 8 f.inCount] ∧
      bytesField b 4 4 = f.start.toNat ∧ bytesField b 8 24 = 0 ∧
      ∀ j < 16, bytesField b (32 + 2 * j) 2 = (words.getD j 0).toNat := by
  intro b
  have tail : ((wordsBytes words ++ leBytes 32 0).take 32).length = 32 := by simp
  refine ⟨?_, ?_, ?_, ?_, fun j hj => ?_⟩
  · simp only [b, slotBytes, List.length_append, leBytes_length, tail]
  · cases lap <;> simp [b, slotBytes, leBytes, bit]
  · have field : bytesField b 4 4 = f.start.toNat % 256 ^ 4 :=
      bytesField_at (front := leBytes 1 (bit lap) ++ leBytes 1 f.handle ++ leBytes 1 f.cycle ++ leBytes 1 f.inCount)
        (by simp only [b, slotBytes, List.append_assoc]; rfl) (by simp)
    exact field.trans (Nat.mod_eq_of_lt f.start.isLt)
  · have field : bytesField b 8 24 = 0 % 256 ^ 24 :=
      bytesField_at (front := leBytes 1 (bit lap) ++ leBytes 1 f.handle ++ leBytes 1 f.cycle ++ leBytes 1 f.inCount ++
        leBytes 4 f.start.toNat) (by simp only [b, slotBytes, List.append_assoc]; rfl) (by simp)
    rw [field, Nat.zero_mod]
  · simp only [b, slotBytes]
    rw [bytesField_append_right (by simp), bytesField_take (by simp; omega), ← bytesField_wordsBytes]
    congr 1
    simp

/-- Settles O37: the three answers to a reservation, and the write at the head of the queue. -/
theorem slotsAreReservedAndWrittenInOrder : Obligations.SlotsAreReservedAndWrittenInOrder := by
  unfold Obligations.SlotsAreReservedAndWrittenInOrder
  refine ⟨fun r => ⟨fun h => ?_, fun ha h => ?_, fun ha h => ?_, fun q h => ?_⟩,
    fun s w rest f hs hq hf => ⟨fun hw => ?_, fun hw ha => ?_, fun lap => slotBytes_spec lap f w.words⟩⟩
  · exact InRing.reserve_inactive (by rw [h]; nofun)
  · exact InRing.reserve_full ha h.ge
  · exact InRing.reserve_room ha h
  · have room := InRing.reserve_ok_room h
    rw [InRing.reserve_ok h]
    exact ⟨room, rfl⟩
  · exact congrArg Host.Outcome.next (State.slotWriteStart_busy hw)
  · exact congrArg Host.Outcome.next (State.slotWriteStart_begins hs hq hf hw ha)

/-- The end of a slot write from a state in which the write has left the queue and the lane, and the ring has become
`ring`: the firing is settled (R37, R87 to R89). -/
theorem State.settleSlot {s : State} {w : SlotWrite} {rest : List SlotWrite} {f : Firing} {ring : InRing}
    (hs : s.serving = true) (law : tableLaw s.activeEntries) (first : List Event) (o : Verdict) (slot : Nat) {u : State}
    (hu : u = { s with
      slotQueue := rest, slotWriting := false, rings := s.rings.set f.ring ring,
      lanes := s.lanes.set w.lane { s.lanes[w.lane] with inFlight := none } }) :
    let t := (Work.settle ⟨u, first, []⟩ f o slot true).finish
    t.slotQueue = rest ∧ t.slotWriting = false ∧ t.rings[f.ring] = ring ∧
      (∀ r : RingId, r ≠ f.ring → t.rings[r] = s.rings[r]) ∧
      t.lanes[w.lane] = { s.lanes[w.lane] with inFlight := none } ∧ OtherLanesKept s t w.lane ∧
      (f.attached = false → t.active = s.active) ∧
      (f.attached = true → t.active = s.active.map fun a =>
        if a.entry.handle = f.handle then
          { a with run := if f.kind = .send ∨ f.kind = .swap then (a.run.scored o).settled a.entry.mode
                          else a.run.scored o }
        else a) ∧
      Settles s t f o slot true first ∧
      t.sc = s.sc ∧ t.edit = s.edit ∧ t.cycle = s.cycle := by
  intro t
  have active : u.active = s.active := by rw [hu]
  obtain ⟨settles, kept⟩ := Work.settle_started (u := u) (by rw [State.activeEntries, active]; exact law.2.2)
    (by rw [hu]; exact State.serving_not_fatal hs) first f o slot
  have whole : Settles s t f o slot true first := by
    refine settles.of_before active ?_ ?_ ?_ ?_ <;> rw [hu]
  have rings : t.rings = s.rings.set f.ring ring := (congrArg State.rings kept).trans (by rw [hu])
  have lanes : t.lanes = s.lanes.set w.lane { s.lanes[w.lane] with inFlight := none } :=
    (congrArg State.lanes kept).trans (by rw [hu])
  refine ⟨(congrArg State.slotQueue kept).trans (by rw [hu]), (congrArg State.slotWriting kept).trans (by rw [hu]), ?_,
    fun r hr => ?_, ?_, fun m hm => ?_, whole.1.active_detached, whole.1.active_attached, whole,
    (congrArg State.sc kept).trans (by rw [hu]), (congrArg State.edit kept).trans (by rw [hu]),
    (congrArg State.cycle kept).trans (by rw [hu])⟩
  · rw [rings]
    simp
  · have other : (f.ring : Nat) ≠ r := fun h => hr (Fin.ext h.symm)
    rw [rings]
    simp [other]
  · rw [lanes]
    simp
  · have other : (w.lane : Nat) ≠ m := fun h => hm (Fin.ext h.symm)
    rw [lanes]
    simp [other]

/-- Settles O38: each of the three ends leaves the queue, the lane and the ring as `State.settleSlot` says. -/
theorem slotWriteEndSettlesTheFiring : Obligations.SlotWriteEndSettlesTheFiring := by
  unfold Obligations.SlotWriteEndSettlesTheFiring
  intro s w rest f c o ring slot first hs hq hf law position hc
  obtain ⟨rfl, hw, rfl, rfl, rfl, rfl⟩ | ⟨rfl, hw, rfl, rfl, rfl, rfl⟩ | ⟨rfl, hw, ha, hk, rfl, rfl, rfl, rfl⟩ := hc
  · exact ⟨_, congrArg Host.Outcome.next (State.slotWriteEnd_ok hs hq hf hw), State.settleSlot hs law [] _ _ rfl⟩
  · exact ⟨_, congrArg Host.Outcome.next (State.slotWriteEnd_error hs hq hf hw),
      State.settleSlot hs law [f.ringFaultEvent s.rings[f.ring].position] _ _ rfl⟩
  · refine ⟨_, congrArg Host.Outcome.next (State.slotWriteStart_faulted hs hq hf hw ha), State.settleSlot hs law [] _ _ ?_⟩
    rw [State.returnSlot, if_pos (Kind.receives_iff.2 hk)]
    obtain ⟨⟩ := s
    simp only at hw
    subst hw
    rfl

end Sys2Proof.Machine

namespace Sys2Proof.Machine

set_option Elab.async false

/-! ### Operands of the creations and deletions -/

theorem aligned64_iff {a : HostAddr} : aligned64 a = true ↔ a.toNat % 64 = 0 := by simp [aligned64]

/-- The slot counts and depths of the manual: powers of two from `2 ^ a` to 4096 (R84, R138, R155). -/
theorem powerOfTwoIn_exp {a n : Nat} : powerOfTwoIn (2 ^ a) 4096 n = true ↔ ∃ k, a ≤ k ∧ k ≤ 12 ∧ n = 2 ^ k := by
  rw [powerOfTwoIn_iff]
  constructor
  · rintro ⟨⟨hl, -⟩, k, hk, rfl⟩
    exact ⟨k, (Nat.pow_le_pow_iff_right (by omega)).1 hl, by omega, rfl⟩
  · rintro ⟨k, hl, hk, rfl⟩
    exact ⟨⟨Nat.pow_le_pow_right (by omega) hl, Nat.pow_le_pow_right (n := 2) (by omega) hk⟩, k, by omega, rfl⟩

theorem ringOfByte_some {n : Nat} {i : RingId} (h : n = i.val) : ringOfByte n = some i := by
  subst h
  exact dif_pos i.isLt

theorem ringOfByte_none {n : Nat} (h : 15 < n) : ringOfByte n = none := dif_neg (by omega)

theorem laneOfByte_some {n : Nat} {l : LaneId} (h : n = l.val) : laneOfByte n = some l := by
  subst h
  exact dif_pos l.isLt

theorem laneOfByte_none {n : Nat} (h : 7 < n) : laneOfByte n = none := dif_neg (by omega)

theorem createdPairOfByte_some {n : Nat} {p : PairId} (hp : p ≠ 0) (h : n = p.val) : createdPairOfByte n = some p := by
  subst h
  have : 1 ≤ p.val := Nat.one_le_iff_ne_zero.2 fun h => hp (Fin.ext h)
  exact dif_pos ⟨this, by omega⟩

theorem createdPairOfByte_none {n : Nat} (h : n = 0 ∨ 3 < n) : createdPairOfByte n = none := dif_neg (by omega)

/-- An admin-only command of pair 0 is its owner's (R145). -/
theorem adminOnly_admin {owner : CommandRecord → CmdRef → State → State} {r : CommandRecord} {ref : CmdRef} {s : State}
    (h : ref.pair = 0) : adminOnly owner r ref s = owner r ref s := if_pos h

/-- A held admin-only command of pair 0 answers what its owner does. -/
theorem Answers.of_admin {c : Instr} {opcode : Nat} {owner : CommandRecord → CmdRef → State → State} {s u : State}
    {h : Held} {status : Status} {result : Reg} (hx : exec c s = .next (s.runCommand opcode (adminOnly owner)))
    (hh : s.heldCommand opcode = some h) (hp : h.pair = 0)
    (ho : owner h.record h.ref s.taken = u.complete h.ref status result) : Answers c s u h status result :=
  .of_owner hx hh ((adminOnly_admin hp).trans ho)

/-- A held admin-only command of pair 0 leads to the state that its owner makes. -/
theorem exec_admin {c : Instr} {opcode : Nat} {owner : CommandRecord → CmdRef → State → State} {s t : State} {h : Held}
    (hx : exec c s = .next (s.runCommand opcode (adminOnly owner))) (hh : s.heldCommand opcode = some h)
    (hp : h.pair = 0) (ho : owner h.record h.ref s.taken = t) : exec c s = .next t :=
  exec_held hx hh ((adminOnly_admin hp).trans ho)

/-! ### RING CREATE (R84) -/

section
variable {r : CommandRecord} {ref : CmdRef} {s : State} {i : RingId}

theorem ringCreateOwner_noRing (hi : ringOfByte (recordByte r 8) = none) :
    ringCreateOwner r ref s = s.complete ref .badField 0 := by
  simp only [ringCreateOwner, hi]

theorem ringCreateOwner_badField (hi : ringOfByte (recordByte r 8) = some i)
    (hc : aligned64 (recordAddress r 16) = false ∨ powerOfTwoIn 2 4096 (recordField16 r 12) = false ∨
      reservedZero r [(8, 8), (12, 13), (16, 23)] = false) :
    ringCreateOwner r ref s = s.complete ref .badField 0 := by
  simp only [ringCreateOwner, hi, if_pos hc]

variable (hi : ringOfByte (recordByte r 8) = some i)
  (hc : ¬ (aligned64 (recordAddress r 16) = false ∨ powerOfTwoIn 2 4096 (recordField16 r 12) = false ∨
    reservedZero r [(8, 8), (12, 13), (16, 23)] = false))
include hi hc

theorem ringCreateOwner_inUse (hu : s.rings[i].state ≠ .absent ∨ s.rings[i].closing.isSome) :
    ringCreateOwner r ref s = s.complete ref .inUse 0 := by
  simp only [ringCreateOwner, hi, if_neg hc, if_pos hu]

theorem ringCreateOwner_ok (hu : ¬ (s.rings[i].state ≠ .absent ∨ s.rings[i].closing.isSome)) :
    ringCreateOwner r ref s =
      (s.setRing i { InRing.reset with
        state := .active, base := recordAddress r 16, slotCount := recordField16 r 12 }).complete ref .ok 0 := by
  simp only [ringCreateOwner, hi, if_neg hc, if_neg hu]

end

/-! ### QUEUE CREATE (R138) -/

section
variable {r : CommandRecord} {ref : CmdRef} {s : State} {p : PairId} {int : Bool}

theorem queueCreateOwner_noPair (hp : createdPairOfByte (recordByte r 8) = none ∨ flagByte (recordByte r 9) = none) :
    queueCreateOwner r ref s = s.complete ref .badField 0 := by
  unfold queueCreateOwner
  obtain h | h := hp
  · rw [h]
  · rw [h]
    split
    · rename_i h'
      cases h'
    · rfl

variable (hp : createdPairOfByte (recordByte r 8) = some p) (hf : flagByte (recordByte r 9) = some int)
include hp hf

theorem queueCreateOwner_badField
    (hc : aligned64 (recordAddress r 16) = false ∨ aligned64 (recordAddress r 24) = false ∨
      powerOfTwoIn 4 4096 (recordField16 r 12) = false ∨ reservedZero r [(8, 9), (12, 13), (16, 31)] = false) :
    queueCreateOwner r ref s = s.complete ref .badField 0 := by
  simp only [queueCreateOwner, hp, hf, if_pos hc]

variable (hc : ¬ (aligned64 (recordAddress r 16) = false ∨ aligned64 (recordAddress r 24) = false ∨
  powerOfTwoIn 4 4096 (recordField16 r 12) = false ∨ reservedZero r [(8, 9), (12, 13), (16, 31)] = false))
include hc

theorem queueCreateOwner_inUse (hu : s.pairs[p].state ≠ .absent ∨ s.pairs[p].deleting.isSome) :
    queueCreateOwner r ref s = s.complete ref .inUse 0 := by
  simp only [queueCreateOwner, hp, hf, if_neg hc, if_pos hu]

theorem queueCreateOwner_ok (hu : ¬ (s.pairs[p].state ≠ .absent ∨ s.pairs[p].deleting.isSome)) :
    queueCreateOwner r ref s =
      (s.setPair p { Pair.reset with
        state := .active, sqBase := recordAddress r 16, cqBase := recordAddress r 24, depth := recordField16 r 12,
        intEnable := int }).complete ref .ok 0 := by
  simp only [queueCreateOwner, hp, hf, if_neg hc, if_neg hu]

end

/-! ### EVENTS OPEN (R155) -/

section
variable {r : CommandRecord} {ref : CmdRef} {s : State} {int : Bool}

theorem eventsOpenOwner_badFlag (hf : flagByte (recordByte r 9) = none) :
    eventsOpenOwner r ref s = s.complete ref .badField 0 := by
  simp only [eventsOpenOwner, hf]

variable (hf : flagByte (recordByte r 9) = some int)
include hf

theorem eventsOpenOwner_badField
    (hc : aligned64 (recordAddress r 16) = false ∨ powerOfTwoIn 16 4096 (recordField16 r 12) = false ∨
      reservedZero r [(9, 9), (12, 13), (16, 23)] = false) :
    eventsOpenOwner r ref s = s.complete ref .badField 0 := by
  simp only [eventsOpenOwner, hf, if_pos hc]

variable (hc : ¬ (aligned64 (recordAddress r 16) = false ∨ powerOfTwoIn 16 4096 (recordField16 r 12) = false ∨
  reservedZero r [(9, 9), (12, 13), (16, 23)] = false))
include hc

theorem eventsOpenOwner_inUse (hu : s.ew.state = .active) :
    eventsOpenOwner r ref s = s.complete ref .inUse 0 := by
  simp only [eventsOpenOwner, hf, if_neg hc, if_pos hu]

theorem eventsOpenOwner_ok (hu : s.ew.state ≠ .active) :
    eventsOpenOwner r ref s =
      { s with ew := { EventWriter.reset with
          state := .active, base := recordAddress r 16, depth := recordField16 r 12, intEnable := int,
          stray := s.ew.stray } }.complete ref .ok
        (pack [(previousCode s.ew.state, 0), (s.ew.cause.code, 8), (s.ew.dropped, 16)]) := by
  simp only [eventsOpenOwner, hf, if_neg hc, if_neg hu]

end

/-- A flag byte that is accepted is set exactly if it is 1 (section 11.1). -/
theorem flagByte_of_le {n : Nat} (h : n ≤ 1) : flagByte n = some (decide (n = 1)) := by
  obtain rfl | rfl : n = 0 ∨ n = 1 := by omega
  · rfl
  · rfl

theorem eq_false_iff_not {b : Bool} : b = false ↔ ¬ b = true := by simp

/-- Settles O35: the checks of the three creations, and what they make. -/
theorem creationsMakeFreshRings : Obligations.CreationsMakeFreshRings := by
  unfold Obligations.CreationsMakeFreshRings
  refine ⟨fun s h hh h0 => ?_, fun s h hh h0 => ?_, fun s h hh h0 => ?_⟩
  · intro n base fits
    have depth : powerOfTwoIn 2 4096 n = true ↔ _ := powerOfTwoIn_exp (a := 1)
    have check : (aligned64 base = false ∨ powerOfTwoIn 2 4096 n = false ∨
        reservedZero h.record [(8, 8), (12, 13), (16, 23)] = false) ↔ ¬ fits := by
      simp only [eq_false_iff_not, aligned64_iff, depth, ← not_and_or, fits]
    refine ⟨fun hbad => ?_, fun i hi hfit => ⟨fun hu => ?_, fun ha hc => ?_⟩⟩
    · cases hr : ringOfByte (recordByte h.record 8) with
      | none => exact .of_admin rfl hh h0 (ringCreateOwner_noRing hr)
      | some i =>
        have ring : ¬ 15 < recordByte h.record 8 := fun hn => by simp [ringOfByte_none hn] at hr
        exact .of_admin rfl hh h0 (ringCreateOwner_badField hr (check.2 (hbad.resolve_left ring)))
    · exact .of_admin rfl hh h0 (ringCreateOwner_inUse (ringOfByte_some hi) (fun hb => check.1 hb hfit)
        (hu.imp id Option.isSome_iff_ne_none.2))
    · refine .of_admin rfl hh h0 (ringCreateOwner_ok (ringOfByte_some hi) (fun hb => check.1 hb hfit) ?_)
      rintro (hn | hn)
      · exact hn ha
      · exact Option.isSome_iff_ne_none.1 hn hc
  · intro n sq cq fits
    have depth : powerOfTwoIn 4 4096 n = true ↔ _ := powerOfTwoIn_exp (a := 2)
    have check (hflag : recordByte h.record 9 ≤ 1) : (aligned64 sq = false ∨ aligned64 cq = false ∨
        powerOfTwoIn 4 4096 n = false ∨ reservedZero h.record [(8, 9), (12, 13), (16, 31)] = false) ↔ ¬ fits := by
      simp only [eq_false_iff_not, aligned64_iff, depth, ← not_and_or, fits, hflag, true_and]
    refine ⟨fun hbad => ?_, fun p hp hb hfit => ⟨fun hu => ?_, fun ha hd => ?_⟩⟩
    · cases hr : createdPairOfByte (recordByte h.record 8) with
      | none => exact .of_admin rfl hh h0 (queueCreateOwner_noPair (.inl hr))
      | some p =>
        cases hf : flagByte (recordByte h.record 9) with
        | none => exact .of_admin rfl hh h0 (queueCreateOwner_noPair (.inr hf))
        | some int =>
          have flag : recordByte h.record 9 ≤ 1 := Nat.not_lt.1 fun hn => by simp [flagByte_eq_none.2 hn] at hf
          have misfit : ¬ fits := by
            obtain h0 | h3 | hn := hbad
            · simp [createdPairOfByte_none (.inl h0)] at hr
            · simp [createdPairOfByte_none (.inr h3)] at hr
            · exact hn
          exact .of_admin rfl hh h0 (queueCreateOwner_badField hr hf ((check flag).2 misfit))
    · exact .of_admin rfl hh h0 (queueCreateOwner_inUse (createdPairOfByte_some hp hb) (flagByte_of_le hfit.1)
        (fun hc => (check hfit.1).1 hc hfit) (hu.imp id Option.isSome_iff_ne_none.2))
    · refine .of_admin rfl hh h0 (queueCreateOwner_ok (createdPairOfByte_some hp hb) (flagByte_of_le hfit.1)
        (fun hc => (check hfit.1).1 hc hfit) ?_)
      rintro (hn | hn)
      · exact hn ha
      · exact Option.isSome_iff_ne_none.1 hn hd
  · intro n base fits
    have depth : powerOfTwoIn 16 4096 n = true ↔ _ := powerOfTwoIn_exp (a := 4)
    have check (hflag : recordByte h.record 9 ≤ 1) : (aligned64 base = false ∨ powerOfTwoIn 16 4096 n = false ∨
        reservedZero h.record [(9, 9), (12, 13), (16, 23)] = false) ↔ ¬ fits := by
      simp only [eq_false_iff_not, aligned64_iff, depth, ← not_and_or, fits, hflag, true_and]
    refine ⟨fun hbad => ?_, fun hfit => ⟨fun ha => ?_, fun ha => ?_⟩⟩
    · cases hf : flagByte (recordByte h.record 9) with
      | none => exact .of_admin rfl hh h0 (eventsOpenOwner_badFlag hf)
      | some int =>
        have flag : recordByte h.record 9 ≤ 1 := Nat.not_lt.1 fun hn => by simp [flagByte_eq_none.2 hn] at hf
        exact .of_admin rfl hh h0 (eventsOpenOwner_badField hf ((check flag).2 hbad))
    · exact .of_admin rfl hh h0 (eventsOpenOwner_inUse (flagByte_of_le hfit.1) (fun hc => (check hfit.1).1 hc hfit) ha)
    · have previous : previousCode s.ew.state = if s.ew.state = .error then 2 else 0 := by
        cases s.ew.state <;> rfl
      rw [← previous]
      exact .of_admin rfl hh h0
        (eventsOpenOwner_ok (s := s.taken) (flagByte_of_le hfit.1) (fun hc => (check hfit.1).1 hc hfit) ha)

/-! ### RING RELEASE (R90) -/

section
variable {r : CommandRecord} {ref : CmdRef} {s : State} {i : RingId}

theorem ringReleaseOwner_noRing (hi : ringOfByte (recordByte r 8) = none) :
    ringReleaseOwner r ref s = s.complete ref .badField 0 := by
  simp only [ringReleaseOwner, hi]

variable (hi : ringOfByte (recordByte r 8) = some i)
include hi

theorem ringReleaseOwner_badField (hz : reservedZero r [(8, 8), (12, 15)] = false) :
    ringReleaseOwner r ref s = s.complete ref .badField 0 := by
  simp only [ringReleaseOwner, hi, if_pos hz]

variable (hz : ¬ reservedZero r [(8, 8), (12, 15)] = false)
include hz

theorem ringReleaseOwner_absent (ha : s.rings[i].state = .absent) :
    ringReleaseOwner r ref s = s.complete ref .ringAbsent 0 := by
  simp only [ringReleaseOwner, hi, if_neg hz, if_pos ha]

variable (ha : ¬ s.rings[i].state = .absent)
include ha

theorem ringReleaseOwner_badIndex
    (hn : s.rings[i].unreturned < (recordField32 r 12 - s.rings[i].returned).toNat) :
    ringReleaseOwner r ref s = s.complete ref .badIndex 0 := by
  simp only [ringReleaseOwner, hi, if_neg hz, if_neg ha, if_pos hn]

theorem ringReleaseOwner_ok
    (hn : ¬ s.rings[i].unreturned < (recordField32 r 12 - s.rings[i].returned).toNat) :
    ringReleaseOwner r ref s =
      (s.setRing i { s.rings[i] with returned := recordField32 r 12 }).complete ref .ok
        (s.rings[i].written - recordField32 r 12) := by
  simp only [ringReleaseOwner, hi, if_neg hz, if_neg ha, if_neg hn]

end

/-! ### RING DELETE (R92, R93) -/

section
variable {r : CommandRecord} {ref : CmdRef} {s : State} {i : RingId}

theorem ringDeleteOwner_noRing (hi : ringOfByte (recordByte r 8) = none) :
    ringDeleteOwner r ref s = s.complete ref .badField 0 := by
  simp only [ringDeleteOwner, hi]

variable (hi : ringOfByte (recordByte r 8) = some i)
include hi

theorem ringDeleteOwner_badField (hz : reservedZero r [(8, 8)] = false) :
    ringDeleteOwner r ref s = s.complete ref .badField 0 := by
  simp only [ringDeleteOwner, hi, if_pos hz]

variable (hz : ¬ reservedZero r [(8, 8)] = false)
include hz

theorem ringDeleteOwner_absent (ha : s.rings[i].state = .absent) :
    ringDeleteOwner r ref s = s.complete ref .ringAbsent 0 := by
  simp only [ringDeleteOwner, hi, if_neg hz, if_pos ha]

variable (ha : ¬ s.rings[i].state = .absent)
include ha

theorem ringDeleteOwner_closing (hc : s.rings[i].closing.isSome = true) :
    ringDeleteOwner r ref s = s.complete ref .wrongState 0 := by
  simp only [ringDeleteOwner, hi, if_neg hz, if_neg ha, if_pos hc]

variable (hc : ¬ s.rings[i].closing.isSome = true)
include hc

theorem ringDeleteOwner_inUse (hu : s.ringInUse i = true) : ringDeleteOwner r ref s = s.complete ref .inUse 0 := by
  simp only [ringDeleteOwner, hi, if_neg hz, if_neg ha, if_neg hc, if_pos hu]

variable (hu : ¬ s.ringInUse i = true)
include hu

theorem ringDeleteOwner_waits (hw : s.ringHasWork i = true) :
    ringDeleteOwner r ref s = s.setRing i { s.rings[i] with closing := some ref } := by
  simp only [ringDeleteOwner, hi, if_neg hz, if_neg ha, if_neg hc, if_neg hu, if_pos hw]

theorem ringDeleteOwner_ok (hw : ¬ s.ringHasWork i = true) :
    ringDeleteOwner r ref s = (s.setRing i InRing.reset).complete ref .ok s.rings[i].written := by
  simp only [ringDeleteOwner, hi, if_neg hz, if_neg ha, if_neg hc, if_neg hu, if_neg hw]

end

theorem Entry.namesRing_iff {i : RingId} {e : Entry} :
    e.namesRing i = true ↔ (e.kind = .fetch ∨ e.kind = .swap) ∧ e.ring = i := by
  simp [Entry.namesRing, Kind.receives_iff]

/-- The edit table counts while a commit is pending (R17, R92). -/
theorem State.mem_committing {s : State} {e : Entry} : e ∈ s.committing ↔ s.pendingCommit ≠ none ∧ e ∈ s.edit := by
  unfold State.committing State.pendingCommit
  cases s.session with
  | none => simp
  | some x => cases hc : x.commit <;> simp [hc]

/-- A ring is named by an active FETCH or SWAP, or by one of a pending commit (R92). -/
theorem State.ringInUse_iff {s : State} {i : RingId} :
    s.ringInUse i = true ↔ (∃ a ∈ s.active, (a.entry.kind = .fetch ∨ a.entry.kind = .swap) ∧ a.entry.ring = i) ∨
      (s.pendingCommit ≠ none ∧ ∃ e ∈ s.edit, (e.kind = .fetch ∨ e.kind = .swap) ∧ e.ring = i) := by
  simp only [State.ringInUse, Bool.or_eq_true, List.any_eq_true, Entry.namesRing_iff, State.mem_committing, and_assoc,
    exists_and_left]

/-- The firing whose outcome a lane's slot write will settle (R66). -/
theorem State.settlingFiring_eq_some {s : State} {l : LaneId} {f : Firing} :
    s.settlingFiring l = some f ↔
      ∃ x, s.lanes[l].inFlight = some x ∧ x.source = .scheduled f ∧ x.settling = true := by
  unfold State.settlingFiring
  cases hx : s.lanes[l].inFlight with
  | none => simp
  | some x => cases hs : x.source <;> simp [hs, and_comm]

/-- A write of the queue is addressed to the ring (R93). -/
theorem State.ringQueued_iff {s : State} {i : RingId} :
    s.ringQueued i = true ↔ ∃ w ∈ s.slotQueue, ∃ x f, s.lanes[w.lane].inFlight = some x ∧ x.source = .scheduled f ∧
      x.settling = true ∧ f.ring = i := by
  simp only [State.ringQueued, List.any_eq_true, decide_eq_true_eq, Option.map_eq_some_iff,
    State.settlingFiring_eq_some]
  refine exists_congr fun w => and_congr_right fun _ => ?_
  constructor
  · rintro ⟨f, ⟨x, h1, h2, h3⟩, h4⟩
    exact ⟨x, f, h1, h2, h3, h4⟩
  · rintro ⟨x, f, h1, h2, h3, h4⟩
    exact ⟨f, ⟨x, h1, h2, h3⟩, h4⟩

/-- The outstanding work of a ring (R93). -/
theorem State.ringHasWork_iff {s : State} {i : RingId} :
    s.ringHasWork i = true ↔ s.rings[i].reserved ≠ 0 ∨
      ∃ w ∈ s.slotQueue, ∃ x f, s.lanes[w.lane].inFlight = some x ∧ x.source = .scheduled f ∧ x.settling = true ∧
        f.ring = i := by
  rw [State.ringHasWork, Bool.or_eq_true, decide_eq_true_eq, State.ringQueued_iff]

theorem State.ringDeleteFinish_waits {s : State} {i : RingId} (hw : s.ringHasWork i = true) :
    s.ringDeleteFinish i = s := by
  unfold State.ringDeleteFinish
  split
  · rfl
  · rw [if_neg (by simp [hw])]

theorem State.ringDeleteFinish_done {s : State} {i : RingId} {ref : CmdRef} (hs : s.serving = true)
    (hc : s.rings[i].closing = some ref) (hw : ¬ s.ringHasWork i = true) :
    s.ringDeleteFinish i = (s.setRing i InRing.reset).complete ref .ok s.rings[i].written := by
  simp only [State.ringDeleteFinish, hc]
  rw [if_pos (by simp [hs, hw])]

/-- Settles O36: the checks in order, and the two ends of a deletion. -/
theorem ringsAreReleasedAndDeleted : Obligations.RingsAreReleasedAndDeleted := by
  unfold Obligations.RingsAreReleasedAndDeleted
  refine ⟨fun s h hh => ?_, fun s h hh h0 => ?_, fun s i ref hs hc => ?_, rfl⟩
  · intro new
    refine ⟨fun hbad => ?_, fun i hi hz => ?_⟩
    · cases hr : ringOfByte (recordByte h.record 8) with
      | none => exact .of_owner rfl hh (ringReleaseOwner_noRing hr)
      | some i =>
        have ring : ¬ 15 < recordByte h.record 8 := fun hn => by simp [ringOfByte_none hn] at hr
        exact .of_owner rfl hh (ringReleaseOwner_badField hr (hbad.resolve_left ring))
    · have fits : ¬ reservedZero h.record [(8, 8), (12, 15)] = false := by simp [hz]
      have ring := ringOfByte_some hi
      exact ⟨fun ha => .of_owner rfl hh (ringReleaseOwner_absent ring fits ha), fun ha =>
        ⟨fun hn => .of_owner rfl hh (ringReleaseOwner_badIndex ring fits ha hn),
          fun hn => .of_owner rfl hh (ringReleaseOwner_ok (s := s.taken) ring fits ha (Nat.not_lt.2 hn))⟩⟩
  · refine ⟨fun hbad => ?_, fun i hi hz => ?_⟩
    · cases hr : ringOfByte (recordByte h.record 8) with
      | none => exact .of_admin rfl hh h0 (ringDeleteOwner_noRing hr)
      | some i =>
        have ring : ¬ 15 < recordByte h.record 8 := fun hn => by simp [ringOfByte_none hn] at hr
        exact .of_admin rfl hh h0 (ringDeleteOwner_badField hr (hbad.resolve_left ring))
    · intro queued named
      have fits : ¬ reservedZero h.record [(8, 8)] = false := by simp [hz]
      have ring := ringOfByte_some hi
      have work : s.taken.ringHasWork i = true ↔ (s.rings[i]).reserved ≠ 0 ∨ queued := State.ringHasWork_iff
      refine ⟨fun ha => .of_admin rfl hh h0 (ringDeleteOwner_absent ring fits ha), fun ha => ⟨fun hc => ?_, fun hc => ?_⟩⟩
      · exact .of_admin rfl hh h0 (ringDeleteOwner_closing ring fits ha (Option.isSome_iff_ne_none.2 hc))
      · have opened : ¬ (s.taken.rings[i]).closing.isSome = true :=
          fun hn => Option.isSome_iff_ne_none.1 hn hc
        refine ⟨fun hn => ?_, fun hn => ?_⟩
        · exact .of_admin rfl hh h0 (ringDeleteOwner_inUse ring fits ha opened (State.ringInUse_iff.2 hn))
        · have unnamed : ¬ s.taken.ringInUse i = true := fun hu => hn (State.ringInUse_iff.1 hu)
          refine ⟨fun hr hq => ?_, fun hw => ?_⟩
          · refine .of_admin rfl hh h0 (ringDeleteOwner_ok (s := s.taken) ring fits ha opened unnamed fun hw => ?_)
            exact (work.1 hw).elim (fun hn => hn hr) hq
          · exact exec_admin rfl hh h0 (ringDeleteOwner_waits (s := s.taken) ring fits ha opened unnamed (work.2 hw))
  · intro queued
    have work : s.ringHasWork i = true ↔ (s.rings[i]).reserved ≠ 0 ∨ queued := State.ringHasWork_iff
    refine ⟨fun hw => congrArg Host.Outcome.next (State.ringDeleteFinish_waits (work.2 hw)), fun hr hq => ?_⟩
    exact congrArg Host.Outcome.next
      (State.ringDeleteFinish_done hs hc fun hw => (work.1 hw).elim (fun hn => hn hr) hq)

end Sys2Proof.Machine

namespace Sys2Proof.Machine

set_option Elab.async false

/-! ### Held commands (R145) -/

/-- A command is executed exactly while the device executes commands, holds its record and has none in execution. -/
theorem State.heldCommand_iff {s : State} {opcode : Nat} {h : Held} :
    s.heldCommand opcode = some h ↔
      s.serving = true ∧ s.executing = none ∧ s.holding = some h ∧ recordOpcode h.record = opcode := by
  refine ⟨State.heldCommand_serving, fun ⟨hs, he, hh, ho⟩ => ?_⟩
  simp [State.heldCommand, hs, he, hh, ho]

theorem State.serving_iff {s : State} : s.serving = true ↔ s.dev = .config ∨ s.dev = .running ∨ s.dev = .halted := by
  unfold State.serving
  cases s.dev <;> simp

/-- A command that is not held changes nothing (log entry 2). -/
theorem exec_idle {c : Instr} {opcode : Nat} {owner : CommandRecord → CmdRef → State → State} {s : State}
    (hx : exec c s = .next (s.runCommand opcode owner)) (hh : s.heldCommand opcode = none) : exec c s = .next s := by
  rw [hx, State.runCommand_none hh]

/-- An admin-only command of another pair is refused (R145). -/
theorem adminOnly_refused {owner : CommandRecord → CmdRef → State → State} {r : CommandRecord} {ref : CmdRef} {s : State}
    (h : ref.pair ≠ 0) : adminOnly owner r ref s = s.complete ref .adminOnly 0 := if_neg h

theorem State.refuseOpcode_unknown {s : State} {h : Held} (hh : s.holding = some h) (hs : s.serving = true)
    (he : s.executing = none) (ho : recordOpcode h.record ∉ opcodes) :
    s.refuseOpcode = s.taken.complete h.ref .badOpcode 0 := by
  simp [State.refuseOpcode, hh, hs, he, ho, State.taken]

theorem State.refuseOpcode_known {s : State} {h : Held} (hh : s.holding = some h)
    (ho : recordOpcode h.record ∈ opcodes) : s.refuseOpcode = s := by
  simp [State.refuseOpcode, hh, ho]

theorem State.refuseOpcode_idle {s : State} (h : s.serving = false ∨ s.holding = none ∨ s.executing ≠ none) :
    s.refuseOpcode = s := by
  unfold State.refuseOpcode
  split
  · rename_i x hx
    rw [if_neg]
    obtain hs | hh | he := h
    · simp [hs]
    · rw [hh] at hx
      cases hx
    · simp [Option.isNone_iff_eq_none, he]
  · rfl

/-- Settles O50: the step that takes a record does so for its opcode alone. -/
theorem badOpcodeAndAdminOnlyAreRefused : Obligations.BadOpcodeAndAdminOnlyAreRefused := by
  unfold Obligations.BadOpcodeAndAdminOnlyAreRefused
  refine ⟨fun s h hh hs he => ⟨fun ho => congrArg Host.Outcome.next (State.refuseOpcode_unknown hh hs he ho),
    fun ho => congrArg Host.Outcome.next (State.refuseOpcode_known hh ho)⟩, ?_, ?_⟩
  · intro s h c opcode hm hh hp
    have command : ∃ owner, exec c s = .next (s.runCommand opcode (adminOnly owner)) := by
      simp only [List.mem_cons, List.not_mem_nil, or_false, Prod.mk.injEq] at hm
      repeat (obtain ⟨rfl, rfl⟩ | hm := hm; · exact ⟨_, rfl⟩)
      obtain ⟨rfl, rfl⟩ := hm
      exact ⟨_, rfl⟩
    obtain ⟨owner, hx⟩ := command
    exact .of_owner hx hh (adminOnly_refused hp)
  · intro s idle
    have not_idle : ¬ idle ↔ s.serving = true ∧ s.executing = none ∧ s.holding ≠ none := by
      rw [State.serving_iff]
      simp only [idle, not_or, not_not]
      cases s.dev <;> simp [and_comm]
    refine ⟨fun opcode h => ?_, State.serving_iff, fun hi => ?_, fun c opcode hm hi => ?_⟩
    · rw [State.heldCommand_iff, not_idle]
      constructor
      · rintro ⟨hs, he, hh, ho⟩
        exact ⟨⟨hs, he, by rw [hh]; nofun⟩, hh, ho⟩
      · rintro ⟨⟨hs, he, -⟩, hh, ho⟩
        exact ⟨hs, he, hh, ho⟩
    · refine congrArg Host.Outcome.next (State.refuseOpcode_idle ?_)
      by_contra hn
      simp only [not_or, Bool.not_eq_false, not_not] at hn
      exact not_idle.2 ⟨hn.1, hn.2.2, hn.2.1⟩ hi
    · have command : ∃ owner, exec c s = .next (s.runCommand opcode owner) := by
        simp only [List.mem_cons, List.not_mem_nil, or_false, Prod.mk.injEq] at hm
        repeat (obtain ⟨rfl, rfl⟩ | hm := hm; · exact ⟨_, rfl⟩)
        obtain ⟨rfl, rfl⟩ := hm
        exact ⟨_, rfl⟩
      obtain ⟨owner, hx⟩ := command
      refine exec_idle hx (Option.eq_none_iff_forall_ne_some.2 fun h hh => ?_)
      obtain ⟨hs, he, hh, ho⟩ := State.heldCommand_iff.1 hh
      obtain hi | hn := hi
      · exact not_idle.2 ⟨hs, he, by rw [hh]; nofun⟩ hi
      · exact hn h hh ho

/-! ### Pair faults (R147, R151, R153, R172) -/

@[simp] theorem Pair.retired_zero (q : Pair) : q.retired 0 = q := by
  obtain ⟨_, deleting, _⟩ := q
  cases deleting <;> rfl

/-- How many records of the pair stand in the holding place. -/
def State.heldOf (s : State) (p : PairId) : Nat :=
  match s.holding with
  | some h => if h.pair = p then 1 else 0
  | none => 0

/-- A discarded record of a pair stops counting on it (R147). -/
theorem State.discardHeld_eq (s : State) (p : PairId) :
    s.discardHeld p = { s with
      holding := s.holding.filter fun h => decide (h.pair ≠ p),
      pairs := s.pairs.set p (s.pairs[p].retired (s.heldOf p)) } := by
  unfold State.discardHeld State.dropHeld State.heldOf State.retire State.setPair
  cases hh : s.holding with
  | none =>
    obtain ⟨⟩ := s
    subst hh
    simp [Option.filter]
  | some h =>
    by_cases hp : h.pair = p
    · subst hp
      simp [Option.filter]
    · simp [hp, ← hh, Option.filter]

/-- Any record in the holding place stops counting on its own pair (R147). -/
theorem State.dropHeld_pair (s : State) (r : PairId) : s.dropHeld.pairs[r] = s.pairs[r].retired (s.heldOf r) := by
  unfold State.dropHeld State.heldOf State.retire State.setPair
  cases hh : s.holding with
  | none => simp
  | some h =>
    by_cases hp : h.pair = r
    · subst hp
      simp
    · simp [hp, Fin.val_inj]

/-- The machine once a pair has entered ERROR, before a fault of pair 0 makes the device FATAL (R151). -/
def State.pairStopped (s : State) (p : PairId) (cause : PairFault) : State :=
  ((s.setPair p (s.pairs[p].faulted cause)).discardHeld p).postAll [s.queueFaultEvent p cause]

theorem State.faultPair_inactive {s : State} {p : PairId} (cause : PairFault) (h : s.pairs[p].state ≠ .active) :
    s.faultPair p cause = s := if_pos h

theorem State.faultPair_admin {s : State} {cause : PairFault} (h : s.pairs[(0 : PairId)].state = .active) :
    s.faultPair 0 cause = (s.pairStopped 0 cause).enterFatal .adminQueue cause := by
  rw [State.faultPair, if_neg (not_not.2 h)]
  rfl

theorem State.faultPair_other {s : State} {p : PairId} {cause : PairFault} (h : s.pairs[p].state = .active)
    (hp : p ≠ 0) : s.faultPair p cause = s.pairStopped p cause := by
  rw [State.faultPair, if_neg (not_not.2 h)]
  simp only [if_neg hp]
  rfl

theorem queueFaultOf_eq (s : State) (p : PairId) (cause : PairFault) : s.queueFaultEvent p cause = queueFaultOf s p cause := by
  unfold State.queueFaultEvent queueFaultOf State.event
  rw [pack_at_zero]

/-- What a pair that enters ERROR changes: itself, the holding place and the Event Writer (R151). -/
theorem State.pairStopped_eq {s : State} {p : PairId} {cause : PairFault} (hs : s.dev ≠ .fatal) :
    ∃ os, s.pairStopped p cause = { s with
      holding := s.holding.filter fun h => decide (h.pair ≠ p),
      pairs := s.pairs.set p ((s.pairs[p].faulted cause).retired (s.heldOf p)),
      ew := s.ew.offer s.sc.localTime (queueFaultOf s p cause),
      outputs := os } := by
  refine ⟨(s.pairStopped p cause).outputs, ?_⟩
  have stopped : (s.setPair p (s.pairs[p].faulted cause)).discardHeld p = { s with
      holding := s.holding.filter fun h => decide (h.pair ≠ p),
      pairs := s.pairs.set p ((s.pairs[p].faulted cause).retired (s.heldOf p)) } := by
    rw [State.discardHeld_eq]
    simp [State.setPair, State.heldOf]
  unfold State.pairStopped
  rw [stopped, State.postAll, if_neg hs, queueFaultOf_eq]
  rfl

section
variable {s : State} {p : PairId} {cause : PairFault} (hd : s.dev ≠ .fatal)
include hd

theorem State.pairStopped_same :
    (s.pairStopped p cause).pairs[p] = (s.pairs[p].faulted cause).retired (s.heldOf p) := by
  obtain ⟨os, h⟩ := State.pairStopped_eq (p := p) (cause := cause) hd
  rw [h]
  simp

theorem State.pairStopped_other {r : PairId} (hr : r ≠ p) : (s.pairStopped p cause).pairs[r] = s.pairs[r] := by
  obtain ⟨os, h⟩ := State.pairStopped_eq (p := p) (cause := cause) hd
  have other : (p : Nat) ≠ r := fun h => hr (Fin.ext h.symm)
  rw [h]
  simp [other]

theorem State.pairStopped_heldOf (r : PairId) :
    (s.pairStopped p cause).heldOf r = if r = p then 0 else s.heldOf r := by
  obtain ⟨os, h⟩ := State.pairStopped_eq (p := p) (cause := cause) hd
  rw [h]
  unfold State.heldOf
  cases hh : s.holding with
  | none => simp [Option.filter]
  | some x =>
    by_cases hx : x.pair = p
    · by_cases hr : r = p
      · simp [Option.filter, hx, hr]
      · simp [Option.filter, hx, hr, Ne.symm hr]
    · by_cases hr : r = p
      · subst hr
        simp [Option.filter, hx]
      · simp [Option.filter, hx, hr]

end

/-- A pair in FATAL has no write in progress, and no record of its own in the holding place (R147, R172). -/
theorem State.enterFatal_pair (s : State) (cause : FatalCause) (fault : PairFault) (r : PairId) :
    (s.enterFatal cause fault).pairs[r] = { s.pairs[r].retired (s.heldOf r) with writing := none } := by
  rw [← State.dropHeld_pair]
  simp [State.enterFatal]

theorem State.dropHeld_shape (s : State) : ∃ ps, s.dropHeld = { s with holding := none, pairs := ps } := by
  unfold State.dropHeld
  split
  · exact ⟨_, rfl⟩
  · rename_i h
    exact ⟨s.pairs, by rw [← h]⟩

/-- A fault of an ACTIVE pair, whatever its number (R151). -/
theorem State.faultPair_fault {s : State} {p : PairId} {cause : PairFault} (hd : s.dev ≠ .fatal)
    (ha : s.pairs[p].state = .active) :
    let t := s.faultPair p cause
    t.pairs[p].state = .error ∧ t.pairs[p].cause = cause ∧ t.pairs[p].handed = [] ∧
      t.ew = s.ew.offer s.sc.localTime (queueFaultOf s p cause) ∧
      t.pairs[p].outstanding = s.pairs[p].outstanding - (s.pairs[p].handed.length + s.heldOf p) ∧
      t.active = s.active ∧ t.session = s.session ∧ t.rings = s.rings ∧
      (∀ h, s.holding = some h → h.pair = p → t.holding = none) := by
  intro t
  obtain ⟨os, hstop⟩ := State.pairStopped_eq (p := p) (cause := cause) hd
  have same := State.pairStopped_same (p := p) (cause := cause) hd
  by_cases hp : p = 0
  · subst hp
    have ht : t = _ := State.faultPair_admin ha
    obtain ⟨ps, hdrop⟩ := (s.pairStopped 0 cause).dropHeld_shape
    have kept : t.ew = (s.pairStopped 0 cause).ew ∧ t.active = (s.pairStopped 0 cause).active ∧
        t.session = (s.pairStopped 0 cause).session ∧ t.rings = (s.pairStopped 0 cause).rings ∧ t.holding = none := by
      rw [ht, State.enterFatal, hdrop]
      exact ⟨rfl, rfl, rfl, rfl, rfl⟩
    obtain ⟨hew, hact, hses, hrings, hhold⟩ := kept
    have pair : t.pairs[(0 : PairId)] = { (s.pairs[(0 : PairId)].faulted cause).retired (s.heldOf 0) with writing := none } := by
      rw [ht, State.enterFatal_pair, State.pairStopped_heldOf hd, if_pos rfl, same, Pair.retired_zero]
    rw [pair, hew, hact, hses, hrings, hstop]
    exact ⟨rfl, rfl, rfl, rfl, Nat.sub_sub _ _ _, rfl, rfl, rfl, fun _ _ _ => hhold⟩
  · have ht : t = _ := State.faultPair_other ha hp
    rw [ht, same, hstop]
    refine ⟨rfl, rfl, rfl, rfl, Nat.sub_sub _ _ _, rfl, rfl, rfl, fun h hh hp => ?_⟩
    simp [hh, hp, Option.filter]

/-- A fault of pair 0 makes the device FATAL (R153, R172). -/
theorem State.faultPair_fatal {s : State} {cause : PairFault} (hd : s.dev ≠ .fatal)
    (ha : s.pairs[(0 : PairId)].state = .active) :
    let t := s.faultPair 0 cause
    t.dev = .fatal ∧ t.fatalCause = .adminQueue ∧ t.adminFault = cause ∧ t.sc.sync = .off ∧ t.sc.sending = none ∧
      t.cycle = none ∧ t.fetching = none ∧ t.executing = none ∧ t.buffers = [] ∧ t.holding = none ∧
      t.slotWriting = false ∧ (∀ l : LaneId, t.lanes[l].inFlight = none) ∧ (∀ r : PairId, t.pairs[r].writing = none) ∧
      ∀ r : PairId, r ≠ 0 → t.pairs[r].outstanding = s.pairs[r].outstanding - s.heldOf r := by
  intro t
  have ht : t = _ := State.faultPair_admin ha
  obtain ⟨ps, hdrop⟩ := (s.pairStopped 0 cause).dropHeld_shape
  refine ⟨?_, ?_, ?_, ?_, ?_, ?_, ?_, ?_, ?_, ?_, ?_, fun l => ?_, fun r => ?_, fun r hr => ?_⟩
  · rw [ht]; rfl
  · rw [ht]; rfl
  · rw [ht]; rfl
  · rw [ht]; rfl
  · rw [ht]; rfl
  · rw [ht]; rfl
  · rw [ht]; rfl
  · rw [ht]; rfl
  · rw [ht]; rfl
  · rw [ht, State.enterFatal, hdrop]
  · rw [ht]; rfl
  · rw [ht]
    simp [State.enterFatal, Lane.freeze]
  · rw [ht, State.enterFatal_pair]
  · rw [ht, State.enterFatal_pair, State.pairStopped_heldOf hd, if_neg hr, State.pairStopped_other hd hr]
    rfl

/-- A fault of another pair stops that pair alone (R151). -/
theorem State.faultPair_alone {s : State} {p : PairId} {cause : PairFault} (hd : s.dev ≠ .fatal)
    (ha : s.pairs[p].state = .active) (hp : p ≠ 0) :
    let t := s.faultPair p cause
    t.dev = s.dev ∧ (∀ r : PairId, r ≠ p → t.pairs[r] = s.pairs[r]) ∧ t.lanes = s.lanes ∧ t.sc = s.sc ∧
      t.cycle = s.cycle ∧ t.fetching = s.fetching ∧ t.buffers = s.buffers ∧ t.pairs[p].writing = s.pairs[p].writing ∧
      ∀ h, s.holding = some h → h.pair ≠ p → t.holding = some h := by
  intro t
  have ht : t = _ := State.faultPair_other ha hp
  obtain ⟨os, hstop⟩ := State.pairStopped_eq (p := p) (cause := cause) hd
  refine ⟨?_, fun r hr => ?_, ?_, ?_, ?_, ?_, ?_, ?_, fun h hh hx => ?_⟩
  · rw [ht, hstop]
  · rw [ht, State.pairStopped_other hd hr]
  · rw [ht, hstop]
  · rw [ht, hstop]
  · rw [ht, hstop]
  · rw [ht, hstop]
  · rw [ht, hstop]
  · rw [ht, State.pairStopped_same hd]
    rfl
  · rw [ht, hstop]
    simp [hh, hx, Option.filter]

end Sys2Proof.Machine

namespace Sys2Proof.Machine

set_option Elab.async false

/-! ### Records as lists of fields (chapter 11) -/

/-- The bytes of fields given by their length and value, least significant byte first. -/
def fieldsBytes (fields : List (Nat × Nat)) : List Byte := fields.flatMap fun f => leBytes f.1 f.2

@[simp] theorem fieldsBytes_length (fields : List (Nat × Nat)) :
    (fieldsBytes fields).length = (fields.map Prod.fst).sum := by
  simp [fieldsBytes, List.length_flatMap]

/-- The field with number `k` of a record stands after the fields before it. -/
theorem bytesField_fields {b : List Byte} {fields : List (Nat × Nat)} (k : Nat) {i n v : Nat} (h : b = fieldsBytes fields)
    (hk : fields[k]? = some (n, v)) (hi : ((fields.take k).map Prod.fst).sum = i) : bytesField b i n = v % 256 ^ n := by
  obtain ⟨hlt, hv⟩ := List.getElem?_eq_some_iff.1 hk
  have parts : fields = fields.take k ++ (n, v) :: fields.drop (k + 1) := by
    rw [← hv, ← List.drop_eq_getElem_cons hlt, List.take_append_drop]
  refine bytesField_at (front := fieldsBytes (fields.take k)) (rest := fieldsBytes (fields.drop (k + 1))) ?_ ?_
  · conv_lhs => rw [h, parts]
    simp only [fieldsBytes, List.flatMap_append, List.flatMap_cons]
  · rw [fieldsBytes_length, hi]

/-- A field that holds a whole word gives back its value. -/
theorem bitVec_toNat_mod {w : Nat} (x : BitVec w) {n : Nat} (h : 256 ^ n = 2 ^ w) : x.toNat % 256 ^ n = x.toNat := by
  rw [h, Nat.mod_eq_of_lt x.isLt]

theorem bit_lt (b : Bool) : bit b < 256 := by cases b <;> decide

/-- A field of one byte that holds a flag. -/
theorem bit_mod (b : Bool) : bit b % 256 ^ 1 = bit b := Nat.mod_eq_of_lt (bit_lt b)

theorem bit_eq_ite (b : Bool) : bit b = if b then 1 else 0 := by cases b <;> rfl

/-- A fault of an ACTIVE pair 0, whatever its number is called, makes the device FATAL (R153). -/
theorem State.faultPair_admin_dev {s : State} {p : PairId} {cause : PairFault} (hd : s.dev ≠ .fatal)
    (ha : s.pairs[p].state = .active) (h0 : p = 0) : (s.faultPair p cause).dev = .fatal ∧
      (s.faultPair p cause).fatalCause = .adminQueue ∧ (s.faultPair p cause).adminFault = cause := by
  subst h0
  obtain ⟨hdev, hfc, haf, -⟩ := State.faultPair_fatal (cause := cause) hd ha
  exact ⟨hdev, hfc, haf⟩

/-! ### Tail and head words (R141, R149) -/

theorem Pair.serves_iff {q : Pair} : q.serves = true ↔ q.state = .active ∧ q.deleting = none := by
  simp [Pair.serves]

/-- Settles O51: a word is taken, ignored, or faults its pair, and what a fault does is said of `State.faultPair`. -/
theorem doorbellsMoveOrFaultThePair : Obligations.DoorbellsMoveOrFaultThePair := by
  unfold Obligations.DoorbellsMoveOrFaultThePair
  intro s p v q headOk faults
  refine ⟨fun hidle => ?_, fun hs ha hdel => ?_⟩
  · have ignored : ¬ (s.serving && q.serves) = true := by
      rw [Bool.and_eq_true, Pair.serves_iff]
      rintro ⟨hs, ha, hdel⟩
      obtain h | h | h := hidle
      · exact absurd hs (by rw [h]; nofun)
      · exact h ha
      · exact h hdel
    exact ⟨congrArg Host.Outcome.next (if_neg ignored), congrArg Host.Outcome.next (if_neg ignored)⟩
  · have hd := State.serving_not_fatal hs
    have taken : (s.serving && q.serves) = true := by
      rw [hs, Pair.serves_iff.2 ⟨ha, hdel⟩]
      rfl
    have faulted {c : Instr} {cause : PairFault} (hc : exec c s = .next (s.faultPair p cause)) : faults c cause := by
      obtain ⟨hst, hcause, hhand, hew, hout, hact, hses, hrings, hheld⟩ := State.faultPair_fault (cause := cause) hd ha
      refine ⟨_, hc, hst, hcause, hhand, hew, hout, fun h0 => ?_, hheld, fun h0 => ?_, fun h0 => ?_, hact, hses, hrings⟩
      · subst h0
        obtain ⟨-, -, -, -, -, -, -, -, -, -, -, -, -, hothers⟩ := State.faultPair_fatal (cause := cause) hd ha
        exact hothers
      · subst h0
        obtain ⟨h1, h2, h3, h4, h5, h6, h7, h8, h9, h10, h11, h12, -⟩ := State.faultPair_fatal (cause := cause) hd ha
        exact ⟨h1, h2, h3, h4, h5, h6, h7, h8, h9, h10, h11, h12⟩
      · exact State.faultPair_alone hd ha h0
    refine ⟨fun hv => ?_, fun hv => ?_, fun hv => ?_, fun hv => ?_⟩
    · exact congrArg Host.Outcome.next ((if_pos taken).trans (if_pos hv))
    · exact faulted (congrArg Host.Outcome.next ((if_pos taken).trans (if_neg (Nat.not_lt.2 hv))))
    · exact congrArg Host.Outcome.next ((if_pos taken).trans (if_pos hv))
    · exact faulted (congrArg Host.Outcome.next ((if_pos taken).trans (if_neg hv)))

/-! ### Fetching (R143, R144) -/

theorem Pair.eligible_iff {q : Pair} : q.eligible = true ↔
    q.state = .active ∧ q.deleting = none ∧ 0 < q.unfetched ∧ q.outstanding + q.unconsumed + 2 ≤ q.depth := by
  simp [Pair.eligible, Pair.serves, and_assoc]

/-- The arbiter looks at the pairs one by one from the pointer on, and at the pointer's own last. -/
theorem arbiterOrder_eq (pointer : PairId) :
    arbiterOrder pointer = (List.finRange 4).map fun k => pointer + (k + 1) := by
  revert pointer
  decide

theorem mem_arbiterOrder (pointer p : PairId) : p ∈ arbiterOrder pointer := by
  revert pointer p
  decide

/-- The arbiter chooses the first eligible pair in its order (R143). -/
theorem State.chosenPair_first {s : State} (hs : s.serving = true) (hf : s.fetching = none) (hh : s.holding = none)
    (k : Fin 4) (hk : s.pairs[s.pointer + (k + 1)].eligible = true)
    (before : ∀ j : Fin 4, j < k → ¬ s.pairs[s.pointer + (j + 1)].eligible = true) :
    s.chosenPair = some (s.pointer + (k + 1)) := by
  have decides : (s.serving && s.fetching.isNone && s.holding.isNone) = true := by simp [hs, hf, hh]
  rw [State.chosenPair, if_pos decides, arbiterOrder_eq, List.find?_eq_some_iff_getElem]
  refine ⟨hk, k, by simp, by simp, fun j hj => ?_⟩
  have hn := before ⟨j, by omega⟩ hj
  simpa using hn

/-- The arbiter chooses no pair when none is eligible, or when it does not decide (R143). -/
theorem State.chosenPair_none {s : State}
    (h : s.serving = false ∨ s.fetching ≠ none ∨ s.holding ≠ none ∨ ∀ p : PairId, ¬ s.pairs[p].eligible = true) :
    s.chosenPair = none := by
  unfold State.chosenPair
  split
  case isFalse => rfl
  case isTrue hc =>
    simp only [Bool.and_eq_true, Option.isNone_iff_eq_none] at hc
    obtain ⟨⟨hs, hf⟩, hh⟩ := hc
    obtain h | h | h | h := h
    · exact absurd hs (by rw [h]; nofun)
    · exact absurd hf h
    · exact absurd hh h
    · exact List.find?_eq_none.2 fun p _ => h p

theorem State.fetchDecision_chosen {s : State} {p : PairId} (h : s.chosenPair = some p) :
    s.fetchDecision = { s with pointer := p, fetching := some p }.emit
      (.dmaRead (s.pairs[p].sqBase + BitVec.ofNat 64 (64 * s.pairs[p].sqHead))) := by
  rw [State.fetchDecision, h]

theorem State.fetchEnd_data {s : State} {p : PairId} (r : CommandRecord) (hs : s.serving = true)
    (hf : s.fetching = some p) : s.fetchEnd (.data r) =
      if s.pairs[p].serves then
        { { s with fetching := none }.setPair p s.pairs[p].fetched with
          holding := some { record := r, pair := p, sqHead := advanceOne s.pairs[p].depth s.pairs[p].sqHead } }
      else { s with fetching := none }.setPair p s.pairs[p].discarded := by
  unfold State.fetchEnd
  rw [hs, hf]

theorem State.fetchEnd_error {s : State} {p : PairId} (hs : s.serving = true) (hf : s.fetching = some p) :
    s.fetchEnd .error = { s with fetching := none }.faultPair p .fetchError := by
  unfold State.fetchEnd
  rw [hs, hf]

/-- Settles O52: the first eligible pair in the arbiter's order, and the cases of a fetch that ends. -/
theorem fetchesTakeTurnsAndFillTheHoldingPlace : Obligations.FetchesTakeTurnsAndFillTheHoldingPlace := by
  unfold Obligations.FetchesTakeTurnsAndFillTheHoldingPlace
  refine ⟨fun s => ⟨fun h => ?_, fun hs hf hh k hk before => ?_⟩, fun s p r hs hf => ⟨fun hq => ?_, fun hq => ?_,
    fun d hq hdel => ?_, fun hq => ?_, fun hq => ?_⟩⟩
  · have none : s.chosenPair = none :=
      State.chosenPair_none (h.imp_right (Or.imp_right (Or.imp_right fun h p hp => h p (Pair.eligible_iff.1 hp))))
    have stays : s.fetchDecision = s := by rw [State.fetchDecision, none]
    exact congrArg Host.Outcome.next stays
  · have chosen := State.chosenPair_first hs hf hh k (Pair.eligible_iff.2 hk)
      fun j hj hp => before j hj (Pair.eligible_iff.1 hp)
    exact congrArg Host.Outcome.next (State.fetchDecision_chosen chosen)
  · exact congrArg Host.Outcome.next ((State.fetchEnd_data r hs hf).trans (if_pos hq))
  · have ceased : ¬ s.pairs[p].serves = true := fun h => by
      have active := (Pair.serves_iff.1 h).1
      rw [hq] at active
      nomatch active
    have kept : s.pairs[p].discarded = s.pairs[p] := if_neg (by rw [hq]; nofun)
    have ends := (State.fetchEnd_data r hs hf).trans (if_neg ceased)
    rw [kept] at ends
    exact congrArg Host.Outcome.next ends
  · have ceased : ¬ s.pairs[p].serves = true := fun h => by
      have serving := (Pair.serves_iff.1 h).2
      rw [hdel] at serving
      nomatch serving
    have counted : s.pairs[p].discarded = _ := if_pos hq
    have ends := (State.fetchEnd_data r hs hf).trans (if_neg ceased)
    rw [counted, hdel] at ends
    exact congrArg Host.Outcome.next ends
  · have hd := State.serving_not_fatal hs
    obtain ⟨hst, hcause, hhand, hew, -⟩ :=
      State.faultPair_fault (s := { s with fetching := none }) (cause := .fetchError) hd hq
    refine ⟨_, congrArg Host.Outcome.next (State.fetchEnd_error hs hf), ?_, hst, hcause, hhand, hew, fun h0 => ?_,
      fun h0 => ?_⟩
    · by_cases h0 : p = 0
      · subst h0
        obtain ⟨-, -, -, -, -, -, hfetch, -⟩ :=
          State.faultPair_fatal (s := { s with fetching := none }) (cause := .fetchError) hd hq
        exact hfetch
      · obtain ⟨-, -, -, -, -, hfetch, -⟩ :=
          State.faultPair_alone (s := { s with fetching := none }) (cause := .fetchError) hd hq h0
        exact hfetch
    · exact State.faultPair_admin_dev (s := { s with fetching := none }) hd hq h0
    · obtain ⟨hdev, hothers, -⟩ :=
        State.faultPair_alone (s := { s with fetching := none }) (cause := .fetchError) hd hq h0
      exact ⟨hdev, hothers⟩
  · exact congrArg Host.Outcome.next ((State.fetchEnd_error hs hf).trans (State.faultPair_inactive _ hq))

/-! ### Completion and buffer writes (R148, R151, R152) -/

theorem completionBytes_fields (c : Completion) (phase : Bool) : completionBytes c phase = fieldsBytes
    [(2, c.ref.tag.toNat), (1, c.ref.pair.val), (1, c.status.code), (2, c.ref.sqHead), (2, 0), (4, c.result.toNat), (3, 0),
      (1, bit phase)] := by
  simp [completionBytes, fieldsBytes]

theorem completionBytes_IsCompletionRecord (c : Completion) (phase : Bool) :
    IsCompletionRecord (completionBytes c phase) c phase := by
  have shape := completionBytes_fields c phase
  refine ⟨by rw [shape, fieldsBytes_length]; rfl, (bytesField_fields 0 shape rfl rfl).trans (bitVec_toNat_mod _ rfl),
    (bytesField_fields 1 shape rfl rfl).trans (Nat.mod_eq_of_lt (by omega)),
    (bytesField_fields 2 shape rfl rfl).trans (Nat.mod_eq_of_lt ?_), bytesField_fields 3 shape rfl rfl,
    bytesField_fields 4 shape rfl rfl, (bytesField_fields 5 shape rfl rfl).trans (bitVec_toNat_mod _ rfl),
    bytesField_fields 6 shape rfl rfl,
    (bytesField_fields 7 shape rfl rfl).trans ((bit_mod phase).trans (bit_eq_ite phase))⟩
  cases c.status <;> decide

/-- The pair after a good completion write: the next completion handed is being written (R148, R150). -/
theorem Pair.wrote_begun (q : Pair) : q.wrote.begun = { q with
    cqTail := advanceOne q.depth q.cqTail, cqPhase := if q.cqTail + 1 = q.depth then !q.cqPhase else q.cqPhase,
    outstanding := q.outstanding - 1, armed := q.armed && !q.intEnable, writing := q.handed.head?,
    handed := q.handed.tail } := by
  unfold Pair.begun Pair.wrote
  cases q.handed <;> rfl

section
variable {s : State} {p : PairId} {c : Completion} (hs : s.serving = true) (hw : s.pairs[p].writing = some c)
include hs hw

theorem State.cqWriteEnd_ok (ha : s.pairs[p].state = .active) : s.cqWriteEnd p .ok =
    (if s.pairs[p].signals then s.emit (.message (.pair p)) else s).beginCompletion p s.pairs[p].wrote := by
  unfold State.cqWriteEnd
  rw [hs, hw]
  exact if_neg (not_not.2 ha)

theorem State.cqWriteEnd_error (ha : s.pairs[p].state = .active) : s.cqWriteEnd p .error =
    (s.setPair p { (s.pairs[p].retired 1) with writing := none }).faultPair p .cqWriteError := by
  unfold State.cqWriteEnd
  rw [hs, hw]
  exact if_neg (not_not.2 ha)

theorem State.cqWriteEnd_stopped (result : DmaWrite) (ha : s.pairs[p].state ≠ .active) : s.cqWriteEnd p result =
    s.setPair p { (s.pairs[p].retired 1) with writing := none } := by
  unfold State.cqWriteEnd
  rw [hs, hw]
  exact if_pos ha

end

section
variable {s : State} {i : Nat} {b : BufferWrite}

/-- The machine with one buffer write ended, before its command is completed or retired (R152). -/
def State.bufferEnded (s : State) (i : Nat) (b : BufferWrite) : State :=
  { s with
    buffers := s.buffers.take i ++ s.buffers.drop (i + 1),
    executing := if b.report then none else s.executing }

theorem State.bufferWriteEnd_ok (hs : s.serving = true) (hb : s.buffers[i]? = some b) :
    s.bufferWriteEnd i .ok = (s.bufferEnded i b).complete b.ref .ok b.result := by
  unfold State.bufferWriteEnd State.bufferEnded
  rw [hs, hb, List.eraseIdx_eq_take_drop_succ]

theorem State.bufferWriteEnd_error (hs : s.serving = true) (hb : s.buffers[i]? = some b) :
    s.bufferWriteEnd i .error = ((s.bufferEnded i b).retire b.ref.pair 1).faultPair b.ref.pair .bufferWriteError := by
  unfold State.bufferWriteEnd State.bufferEnded
  rw [hs, hb, List.eraseIdx_eq_take_drop_succ]

end

/-- A pair set at its own place, and the others. -/
theorem State.setPair_at (s : State) (p r : PairId) (q : Pair) :
    (s.setPair p q).pairs[r] = if r = p then q else s.pairs[r] := by
  by_cases h : r = p
  · subst h
    simp
  · have other : (p : Nat) ≠ r := fun h' => h (Fin.ext h'.symm)
    simp [State.setPair, h, other]

/-- Settles O53: each end of a write by its own equation, and the record by its fields. -/
theorem hostWritesEndTheirCommands : Obligations.HostWritesEndTheirCommands := by
  unfold Obligations.HostWritesEndTheirCommands
  refine ⟨fun s p c hs hw => ?_, fun s i b hs hb => ⟨congrArg Host.Outcome.next (State.bufferWriteEnd_ok hs hb), _,
    congrArg Host.Outcome.next (State.bufferWriteEnd_error hs hb), fun ha => ?_, fun ha => ?_⟩,
    completionBytes_IsCompletionRecord, rfl⟩
  · have hd := State.serving_not_fatal hs
    refine ⟨fun ha => ?_, fun ha => ?_, fun ha result => ?_⟩
    · refine ⟨_, congrArg Host.Outcome.next (State.cqWriteEnd_ok hs hw ha), ?_, ?_, ?_, fun x hx => ?_⟩
      · rw [State.beginCompletion_same, Pair.wrote_begun]
        rfl
      · unfold State.beginCompletion Pair.begins Pair.wrote Pair.signals advanceOne
        split <;> cases s.pairs[p].handed <;> simp_all
      · split <;> rfl
      · rw [State.beginCompletion_other _ _ hx]
        split <;> rfl
    · let u := s.setPair p { (s.pairs[p].retired 1) with writing := none }
      have here : u.pairs[p] = { (s.pairs[p].retired 1) with writing := none } := by rw [State.setPair_at, if_pos rfl]
      have active : u.pairs[p].state = .active := by rw [here]; exact ha
      obtain ⟨hst, hcause, hhand, hew, -⟩ := State.faultPair_fault (s := u) (cause := .cqWriteError) hd active
      refine ⟨_, congrArg Host.Outcome.next (State.cqWriteEnd_error hs hw ha), hst, hcause, ?_, hew, fun h0 => ?_,
        fun h0 => ?_⟩
      · have idle : (u.faultPair p .cqWriteError).pairs[p].writing = none := by
          by_cases h0 : p = 0
          · subst h0
            obtain ⟨-, -, -, -, -, -, -, -, -, -, -, -, hwriting, -⟩ :=
              State.faultPair_fatal (s := u) (cause := .cqWriteError) hd active
            exact hwriting 0
          · obtain ⟨-, -, -, -, -, -, -, hwriting, -⟩ :=
              State.faultPair_alone (s := u) (cause := .cqWriteError) hd active h0
            rw [hwriting, here]
        unfold Pair.owed
        rw [idle, hhand]
        rfl
      · exact State.faultPair_admin_dev hd active h0
      · obtain ⟨hdev, hothers, -⟩ := State.faultPair_alone (s := u) (cause := .cqWriteError) hd active h0
        exact ⟨hdev, fun x hx => (hothers x hx).trans (by rw [State.setPair_at, if_neg hx])⟩
    · have stopped : s.pairs[p].state ≠ .active := by rw [ha]; nofun
      refine ⟨_, congrArg Host.Outcome.next (State.cqWriteEnd_stopped hs hw result stopped), ?_, ?_, ?_, rfl,
        fun x hx => by rw [State.setPair_at, if_neg hx]⟩ <;> rw [State.setPair_at, if_pos rfl] <;> rfl
  · let u := (s.bufferEnded i b).retire b.ref.pair 1
    have hd : u.dev ≠ .fatal := State.serving_not_fatal hs
    have active : u.pairs[b.ref.pair].state = .active :=
      (congrArg Pair.state (State.setPair_at _ _ _ _)).trans (by rw [if_pos rfl]; exact ha)
    obtain ⟨hst, hcause, hhand, hew, -⟩ := State.faultPair_fault (s := u) (cause := .bufferWriteError) hd active
    refine ⟨hst, hcause, hhand, hew, State.faultPair_admin_dev hd active, fun h0 => ?_⟩
    · obtain ⟨hdev, -, -, -, -, -, hbuffers, -⟩ := State.faultPair_alone (cause := .bufferWriteError) hd active h0
      exact ⟨hdev, hbuffers⟩
  · have here : ((s.bufferEnded i b).retire b.ref.pair 1).pairs[b.ref.pair] = s.pairs[b.ref.pair].retired 1 := by
      rw [State.retire, State.setPair_at, if_pos rfl]
      rfl
    have inactive : ((s.bufferEnded i b).retire b.ref.pair 1).pairs[b.ref.pair].state ≠ .active := by
      rw [here]
      exact ha
    rw [State.faultPair_inactive _ inactive, here]
    exact ⟨rfl, rfl, rfl, rfl⟩

end Sys2Proof.Machine

namespace Sys2Proof.Machine

set_option Elab.async false

/-! ### Posted events (R154, R157 to R159) -/

theorem min_succ_eq_ite (n : Nat) : min 65535 (n + 1) = if n < 65535 then n + 1 else 65535 := by
  split <;> omega

section
variable {w : EventWriter} (now : Count32) (e : Event)

theorem EventWriter.offer_error (h : w.state = .error) :
    w.offer now e = { w with dropped := if w.dropped < 65535 then w.dropped + 1 else 65535 } := by
  unfold EventWriter.offer
  rw [h, ← min_succ_eq_ite]

theorem EventWriter.offer_overflowing (h : w.state = .active) {o : Overflow} (ho : w.overflow = some o) :
    w.offer now e = { w with overflow := some { o with count := if o.count < 65535 then o.count + 1 else 65535 } } := by
  unfold EventWriter.offer
  rw [h, ho, ← min_succ_eq_ite]

theorem EventWriter.offer_full (h : w.state = .active) (ho : w.overflow = none) (hn : w.depth ≤ w.occupancy + 2) :
    w.offer now e = { w with overflow := some { count := 1, time := now, kind := e.kind } } := by
  unfold EventWriter.offer
  rw [h, ho]
  exact if_neg (by omega)

theorem EventWriter.offer_room (h : w.state = .active) (ho : w.overflow = none) (hn : w.occupancy + 2 < w.depth) :
    w.offer now e = w.accept e := by
  unfold EventWriter.offer
  rw [h, ho]
  exact if_pos (by omega)

/-- An offer adds to the end of the queue and keeps the ring's base. -/
theorem EventWriter.offer_appends (w : EventWriter) (now : Count32) (e : Event) :
    (w.offer now e).base = w.base ∧ ∃ more, (w.offer now e).queue = w.queue ++ more := by
  unfold EventWriter.offer
  split
  · exact ⟨rfl, [], (List.append_nil _).symm⟩
  · exact ⟨rfl, [], (List.append_nil _).symm⟩
  · split
    · exact ⟨rfl, [], (List.append_nil _).symm⟩
    · split
      · exact ⟨rfl, _, rfl⟩
      · exact ⟨rfl, [], (List.append_nil _).symm⟩

end

/-- The Event Writer after several offers. -/
def EventWriter.offers (w : EventWriter) (now : Count32) (es : List Event) : EventWriter :=
  es.foldl (fun w e => w.offer now e) w

theorem EventWriter.offers_appends (now : Count32) (es : List Event) (w : EventWriter) :
    (w.offers now es).base = w.base ∧ ∃ more, (w.offers now es).queue = w.queue ++ more := by
  induction es generalizing w with
  | nil => exact ⟨rfl, [], (List.append_nil _).symm⟩
  | cons e es ih =>
    obtain ⟨hb, x, hx⟩ := w.offer_appends now e
    obtain ⟨hb', y, hy⟩ := ih (w.offer now e)
    refine ⟨hb'.trans hb, x ++ y, ?_⟩
    rw [← List.append_assoc, ← hx]
    exact hy

/-- The write of the oldest record, where one is queued. -/
theorem EventWriter.begun_cons {w : EventWriter} {r : EventRecord} {rest : List EventRecord} (h : w.queue = r :: rest) :
    w.begun = [.dmaWrite (w.base + BitVec.ofNat 64 (16 * r.position)) (eventBytes r)] := by
  unfold EventWriter.begun
  rw [h]

theorem EventWriter.begun_nil {w : EventWriter} (h : w.queue = []) : w.begun = [] := by
  unfold EventWriter.begun
  rw [h]

theorem EventWriter.writing_iff {w : EventWriter} : w.writing = true ↔ w.queue ≠ [] ∨ w.stray = true := by
  simp [EventWriter.writing]

theorem State.postAll_fatal {s : State} (events : List Event) (h : s.dev = .fatal) : s.postAll events = s := if_pos h

theorem State.postAll_offers {s : State} (events : List Event) (h : s.dev ≠ .fatal) :
    s.postAll events = { s with
      ew := s.ew.offers s.sc.localTime events,
      outputs := (if s.ew.writing then [] else (s.ew.offers s.sc.localTime events).begun) ++ s.outputs } := if_neg h

/-- Settles O55: one offer by the state of the ring, and several by what they add to the queue. -/
theorem postedEventsAreAcceptedOrCounted : Obligations.PostedEventsAreAcceptedOrCounted := by
  unfold Obligations.PostedEventsAreAcceptedOrCounted
  refine ⟨fun w now e => ⟨fun h => ?_, w.offer_error now e, fun h => ⟨fun o ho => w.offer_overflowing now e h ho,
    fun ho => ⟨w.offer_full now e h ho, fun hn => ?_⟩⟩⟩, fun s events => ?_⟩
  · unfold EventWriter.offer
    rw [h]
  · rw [w.offer_room now e h ho hn]
    exact ⟨rfl, ho, rfl, fun ht => ⟨if_pos ht, if_pos ht⟩, fun ht => ⟨if_neg ht, if_neg ht⟩⟩
  · refine ⟨State.postAll_fatal events, fun hd hw => ?_, fun hd hq hst => ?_⟩
    · rw [State.postAll_offers events hd, if_pos (EventWriter.writing_iff.2 hw)]
      rfl
    · have idle : ¬ s.ew.writing = true := fun h => by
        obtain h | h := EventWriter.writing_iff.1 h
        · exact h hq
        · rw [hst] at h
          nomatch h
      have posted := State.postAll_offers events hd
      rw [if_neg idle] at posted
      refine ⟨fun hw => ?_, fun r rest hw => ?_, fun e rest he ha ho hn => ?_⟩
      · rw [posted, EventWriter.begun_nil (w := s.ew.offers _ events) hw]
        rfl
      · rw [posted, EventWriter.begun_cons (w := s.ew.offers _ events) hw]
        rfl
      · obtain ⟨hb, more, hmore⟩ := EventWriter.offers_appends s.sc.localTime rest (s.ew.accept e)
        have first : s.ew.offers s.sc.localTime events = (s.ew.accept e).offers s.sc.localTime rest := by
          rw [he, ← s.ew.offer_room s.sc.localTime e ha ho hn]
          rfl
        have queue : (s.ew.accept e).queue = [⟨s.ew.tail, s.ew.phase, e⟩] := by
          simp [EventWriter.accept, hq]
        rw [queue] at hmore
        rw [posted, first, EventWriter.begun_cons hmore, hb]
        rfl

/-! ### The event ring's head and writes (R158, R160 to R162) -/

theorem eventBytes_fields (r : EventRecord) : eventBytes r = fieldsBytes
    [(1, r.event.kind.code), (1, r.event.cycle), (2, r.event.subject.toNat), (4, r.event.time.toNat),
      (4, r.event.detail.toNat), (3, 0), (1, bit r.phase)] := by
  simp [eventBytes, fieldsBytes]

theorem eventBytes_IsEventRecord (r : EventRecord) : IsEventRecord (eventBytes r) r := by
  have shape := eventBytes_fields r
  refine ⟨by rw [shape, fieldsBytes_length]; rfl, (bytesField_fields 0 shape rfl rfl).trans (Nat.mod_eq_of_lt ?_),
    bytesField_fields 1 shape rfl rfl, (bytesField_fields 2 shape rfl rfl).trans (bitVec_toNat_mod _ rfl),
    (bytesField_fields 3 shape rfl rfl).trans (bitVec_toNat_mod _ rfl),
    (bytesField_fields 4 shape rfl rfl).trans (bitVec_toNat_mod _ rfl), bytesField_fields 5 shape rfl rfl,
    (bytesField_fields 6 shape rfl rfl).trans ((bit_mod r.phase).trans (bit_eq_ite r.phase))⟩
  cases r.event.kind <;> decide

section
variable {s : State} {v : Reg}

theorem State.eqHeadWrite_ignored (h : s.serving = false ∨ s.ew.state ≠ .active) : s.eqHeadWrite v = s := by
  refine if_neg fun hc => ?_
  obtain ⟨hs, ha⟩ := Bool.and_eq_true_iff.1 hc
  obtain h | h := h
  · rw [h] at hs
    nomatch hs
  · exact h (of_decide_eq_true ha)

theorem State.eqHeadWrite_taken (hs : s.serving = true) (ha : s.ew.state = .active) : s.eqHeadWrite v =
    if v.toNat < s.ew.depth ∧ advanceOf s.ew.depth s.ew.head v.toNat ≤ s.ew.written then s.eqHeadAccept v.toNat
    else { s with ew := { (s.ew.fail .badHead s.ew.unbegun) with stray := s.ew.writing } } :=
  if_pos (by rw [hs, decide_eq_true ha]; rfl)

/-- A head that does not move on, or that leaves no overflow to report, only frees its records (R161). -/
theorem State.eqHeadAccept_plain {value : Nat} (h : advanceOf s.ew.depth s.ew.head value = 0 ∨ s.ew.overflow = none) :
    s.eqHeadAccept value = { s with ew := { s.ew with head := value, armed := true } } := by
  unfold State.eqHeadAccept
  obtain h | h := h
  · exact if_pos h
  · rw [h]
    exact ite_self _

/-- A head that moves on has a set overflow accept its record (R159). -/
theorem State.eqHeadAccept_overflow {value : Nat} {o : Overflow} (h : 0 < advanceOf s.ew.depth s.ew.head value)
    (ho : s.ew.overflow = some o) :
    let x := { s.ew with head := value, armed := true, overflow := none }.accept (s.overflowEvent o)
    s.eqHeadAccept value = { s with
      ew := x, outputs := (if s.ew.writing then [] else x.begun) ++ s.outputs } := by
  unfold State.eqHeadAccept
  rw [ho]
  exact if_neg (Nat.ne_of_gt h)

end

section
variable {s : State} (hst : s.ew.stray = false)
include hst

theorem State.eventWriteEnd_idle (result : DmaWrite) (hq : s.ew.queue = []) : s.eventWriteEnd result = s := by
  unfold State.eventWriteEnd
  rw [hst, hq]
  rfl

theorem State.eventWriteEnd_ok {r : EventRecord} {rest : List EventRecord} (hq : s.ew.queue = r :: rest) :
    s.eventWriteEnd .ok = { s with
      ew := s.ew.wrote, outputs := s.ew.wrote.begun ++ s.ew.signal ++ s.outputs } := by
  unfold State.eventWriteEnd
  rw [hst, hq]
  rfl

theorem State.eventWriteEnd_error {r : EventRecord} {rest : List EventRecord} (hq : s.ew.queue = r :: rest) :
    s.eventWriteEnd .error = { s with
      ew := { (s.ew.fail .writeError s.ew.queue.length) with stray := false } } := by
  unfold State.eventWriteEnd
  rw [hst, hq]
  simp [EventWriter.fail, EventWriter.drops, hst]

end

/-- Settles O56: the head write by its three cases, the write's end by its three, and the record by its fields. -/
theorem eventRingMovesOrFails : Obligations.EventRingMovesOrFails := by
  unfold Obligations.EventRingMovesOrFails
  refine ⟨fun s v => ?_, eventBytes_IsEventRecord, rfl⟩
  intro w advance lost fails headOk
  have drops (cause : EventFault) (n : Nat) (stray : Bool) :
      fails cause n stray = { s with ew := { (s.ew.fail cause n) with stray := stray } } := rfl
  refine ⟨fun h => congrArg Host.Outcome.next (State.eqHeadWrite_ignored h), fun hs ha => ?_, fun hst r rest hq => ?_,
    fun hst result => ?_, fun hst hq result => ?_⟩
  · have taken := State.eqHeadWrite_taken (v := v) hs ha
    refine ⟨fun hok h => ?_, fun o hok h0 ho => ?_, fun hok hst => ?_, fun hok hst => ?_⟩
    · exact congrArg Host.Outcome.next ((taken.trans (if_pos hok)).trans (State.eqHeadAccept_plain h))
    · intro record
      refine congrArg Host.Outcome.next (((taken.trans (if_pos hok)).trans (State.eqHeadAccept_overflow h0 ho)).trans ?_)
      have detail : s.overflowEvent o = record.event := by
        unfold State.overflowEvent
        rw [pack_at_zero]
      rw [detail]
      by_cases hidle : w.queue = [] ∧ w.stray = false
      · have idle : ¬ s.ew.writing = true := fun h => by
          obtain h | h := EventWriter.writing_iff.1 h
          · exact h hidle.1
          · exact absurd h (by rw [hidle.2]; exact Bool.false_ne_true)
        rw [if_neg idle, if_pos hidle, EventWriter.begun_cons (r := record) (rest := [])]
        · rfl
        · simp [EventWriter.accept, hidle.1, record, w]
      · have busy : s.ew.writing = true := EventWriter.writing_iff.2 (by
          by_cases hq : w.queue = []
          · exact .inr (eq_true_of_ne_false fun hst => hidle ⟨hq, hst⟩)
          · exact .inl hq)
        rw [if_pos busy, if_neg hidle]
        rfl
    · have unbegun : s.ew.unbegun = w.queue.length - 1 := if_neg (by rw [hst]; exact Bool.false_ne_true)
      have writing : s.ew.writing = decide (w.queue ≠ []) := by
        rw [Bool.eq_iff_iff, EventWriter.writing_iff, decide_eq_true_eq]
        exact or_iff_left (by rw [hst]; exact Bool.false_ne_true)
      rw [drops, ← unbegun, ← writing]
      exact congrArg Host.Outcome.next (taken.trans (if_neg hok))
    · have unbegun : s.ew.unbegun = w.queue.length := if_pos hst
      have writing : s.ew.writing = true := EventWriter.writing_iff.2 (.inr hst)
      have failed := taken.trans (if_neg hok)
      rw [unbegun, writing] at failed
      exact congrArg Host.Outcome.next failed
  · change s.ew.queue = r :: rest at hq
    have rest_begun : s.ew.wrote.begun = rest.head?.elim [] fun x =>
        [.dmaWrite (w.base + BitVec.ofNat 64 (16 * x.position)) (eventBytes x)] := by
      cases rest with
      | nil => exact EventWriter.begun_nil (by simp [EventWriter.wrote, hq])
      | cons x xs => exact EventWriter.begun_cons (rest := xs) (by simp [EventWriter.wrote, hq])
    have queue : s.ew.wrote = { s.ew with queue := rest, armed := s.ew.armed && !s.ew.intEnable } := by
      simp [EventWriter.wrote, hq]
    refine ⟨congrArg Host.Outcome.next (State.eventWriteEnd_error hst hq), congrArg Host.Outcome.next ?_⟩
    rw [State.eventWriteEnd_ok hst hq, rest_begun, queue]
    cases rest <;> simp [EventWriter.signal, w]
  · exact congrArg Host.Outcome.next (if_pos hst)
  · exact congrArg Host.Outcome.next (State.eventWriteEnd_idle hst result hq)

end Sys2Proof.Machine

namespace Sys2Proof.Machine

set_option Elab.async false

/-! ### The first part of QUEUE DELETE (R139) -/

/-- How many commands go with the edit session of a pair: its pending EDIT COMMIT. -/
def State.sessionCommands (s : State) (p : PairId) : Nat :=
  match s.session with
  | some x => if x.owner = p ∧ x.commit ≠ none then 1 else 0
  | none => 0

/-- The edit table once the session of a pair is discarded. -/
def State.editWithout (s : State) (p : PairId) : List Entry :=
  match s.session with
  | some x => if x.owner = p then [] else s.edit
  | none => s.edit

theorem CmdRef.from_iff {p : PairId} {c : CmdRef} : c.from p = true ↔ c.pair = p := by simp [CmdRef.from]

theorem CmdRef.not_from (p : PairId) (c : CmdRef) : (!c.from p) = decide (c.pair ≠ p) := by simp [CmdRef.from]

theorem dropRef_fst (p : PairId) (c : Option CmdRef) : (dropRef p c).1 = c.filter fun c => decide (c.pair ≠ p) := by
  cases c with
  | none => rfl
  | some c => by_cases h : c.pair = p <;> simp [dropRef, CmdRef.from, h, Option.filter]

theorem State.dropSession_eq (s : State) (p : PairId) : s.dropSession p = { s with
    session := s.session.filter fun x => decide (x.owner ≠ p), edit := s.editWithout p,
    pairs := s.pairs.set p (s.pairs[p].retired (s.sessionCommands p)) } := by
  unfold State.dropSession State.editWithout State.sessionCommands
  cases hx : s.session with
  | none =>
    obtain ⟨⟩ := s
    subst hx
    simp
  | some x =>
    by_cases ho : x.owner = p
    · cases hc : x.commit <;> simp [ho, hc, Option.filter, State.retire, State.setPair, bit]
    · simp [ho, ← hx, Option.filter]

/-- The commands that a deletion retires, but for those left in buffer writes (R139). -/
def State.deletionRetires (s : State) (p : PairId) : Nat :=
  s.active.countP (ActiveEntry.holdsStage p) + s.sessionCommands p + (s.lanes.toList.map (Lane.droppedFor p)).sum +
    (dropRef p s.sc.resign).2 + s.pairs[p].handed.length

/-- The first part of QUEUE DELETE: what is waiting for the pair goes, and is counted (R139). -/
theorem State.beginDeletion_eq {s : State} (p : PairId) (ref : CmdRef) (hh : s.holding = none) :
    ∃ n, s.beginDeletion p ref = { s with
      active := s.active.map (ActiveEntry.dropStage p),
      session := s.session.filter fun x => decide (x.owner ≠ p), edit := s.editWithout p,
      lanes := s.lanes.map (Lane.dropPair p),
      sc := { s.sc with resign := (dropRef p s.sc.resign).1 },
      pairs := s.pairs.set p { s.pairs[p] with
        deleting := some { ref := ref, retired := s.deletionRetires p }, handed := [], outstanding := n } } := by
  have empty : (s.setPair p { s.pairs[p] with deleting := some { ref := ref, retired := 0 } }).discardHeld p =
      s.setPair p { s.pairs[p] with deleting := some { ref := ref, retired := 0 } } := by
    unfold State.discardHeld
    rw [State.setPair_holding, hh]
  refine ⟨((s.beginDeletion p ref).pairs[p]).outstanding, ?_⟩
  unfold State.beginDeletion
  simp only [empty, State.dropSession_eq]
  simp [State.dropStages, State.dropLaneWork, State.dropResign, State.dropHanded, State.retire, State.setPair,
    State.editWithout, State.sessionCommands, State.deletionRetires, Pair.retired]

/-! ### The second part (R140) -/

theorem Lane.carriesHost_iff {p : PairId} {x : Lane} : x.carriesHost p = true ↔
    ∃ (e : Exchange) (h : HostExchange), x.inFlight = some e ∧ e.source = .host h ∧ h.ref.pair = p := by
  unfold Lane.carriesHost
  cases hf : x.inFlight with
  | none => simp
  | some e => cases hs : e.source <;> simp [hs, CmdRef.from]

theorem State.pairHasWork_iff {s : State} {p : PairId} : s.pairHasWork p = true ↔
    (∃ (l : LaneId) (x : Exchange) (e : HostExchange), s.lanes[l].inFlight = some x ∧ x.source = .host e ∧
      e.ref.pair = p) ∨ s.pairs[p].writing ≠ none ∨ s.fetching = some p := by
  have lanes : s.lanes.toList.any (Lane.carriesHost p) = true ↔ ∃ l : LaneId, s.lanes[l].carriesHost p = true := by
    rw [List.any_eq_true]
    constructor
    · rintro ⟨x, hx, hc⟩
      obtain ⟨i, hi, rfl⟩ := Vector.mem_iff_getElem.1 (Vector.mem_toList_iff.1 hx)
      exact ⟨⟨i, hi⟩, hc⟩
    · rintro ⟨l, hl⟩
      exact ⟨_, Vector.mem_toList_iff.2 (Vector.getElem_mem l.isLt), hl⟩
  simp only [State.pairHasWork, Bool.or_eq_true, lanes, Lane.carriesHost_iff, or_assoc, decide_eq_true_eq,
    Option.isSome_iff_ne_none]

theorem State.complete_other (s : State) {c : CmdRef} (st : Status) (r : Reg) {p : PairId} (h : p ≠ c.pair) :
    (s.complete c st r).pairs[p] = s.pairs[p] := by
  unfold State.complete State.retire
  split
  · exact State.beginCompletion_other _ _ h
  · exact State.setPair_other _ _ _ _ h

/-- The pair is ABSENT again, its buffer writes are left to themselves, and QUEUE DELETE is answered (R140). -/
theorem State.endDeletion_spec {s : State} {p : PairId} {d : Deletion} (hp : d.ref.pair ≠ p) :
    let t := s.endDeletion p d
    t.pairs[p] = Pair.reset ∧ t.buffers = (s.buffers.filter fun b => decide (b.ref.pair ≠ p)) ∧
      (s.pairs[d.ref.pair].serves = true → t.pairs[d.ref.pair].owed = s.pairs[d.ref.pair].owed ++
        [⟨d.ref, .ok, BitVec.ofNat 32 (d.retired + s.buffers.countP fun b => decide (b.ref.pair = p))⟩]) ∧
      t.active = s.active ∧ t.session = s.session ∧ t.edit = s.edit ∧ t.lanes = s.lanes ∧ t.sc = s.sc ∧
      t.rings = s.rings ∧ t.ew = s.ew ∧ t.hm = s.hm := by
  intro t
  let u := { s with buffers := s.buffers.filter fun b => !b.ref.from p }.setPair p Pair.reset
  have ht : t = u.complete d.ref .ok (pack [(d.retired + s.detachedBuffers p, 0)]) := rfl
  have others : u.pairs[d.ref.pair] = s.pairs[d.ref.pair] := State.setPair_other _ _ _ _ hp
  obtain ⟨-, -, -, -, -, -, -, -, -, -, -, -, hb, hact, hedit, hses, -, hlanes, hrings, -, -, hsc, hhm, hew, -⟩ :=
    u.complete_keeps d.ref .ok (pack [(d.retired + s.detachedBuffers p, 0)])
  rw [← ht] at hb hact hedit hses hlanes hrings hsc hhm hew
  refine ⟨?_, ?_, fun hserves => ?_, hact, hses, hedit, hlanes, hsc, hrings, hew, hhm⟩
  · rw [ht, State.complete_other _ _ _ hp.symm, State.setPair_at, if_pos rfl]
  · exact hb.trans (List.filter_congr fun b _ => CmdRef.not_from p b.ref)
  · rw [← others] at hserves
    obtain ⟨-, howed, -⟩ := State.complete_Handed hserves .ok (pack [(d.retired + s.detachedBuffers p, 0)])
    rw [ht, howed, others, pack_at_zero]
    rfl

theorem State.finishDeletion_busy {s : State} {p : PairId} (h : s.pairHasWork p = true) : s.finishDeletion p = s := by
  unfold State.finishDeletion
  split
  · exact if_pos h
  · rfl

theorem State.finishDeletion_done {s : State} {p : PairId} {d : Deletion} (hd : s.pairs[p].deleting = some d)
    (h : s.pairHasWork p = false) : s.finishDeletion p = s.endDeletion p d := by
  unfold State.finishDeletion
  rw [hd, h]
  rfl

/-! ### QUEUE DELETE (R139, R140) -/

section
variable {r : CommandRecord} {ref : CmdRef} {s : State} {p : PairId}

theorem queueDeleteOwner_badField (h : createdPairOfByte (recordByte r 8) = none ∨ reservedZero r [(8, 8)] = false) :
    queueDeleteOwner r ref s = s.complete ref .badField 0 := by
  unfold queueDeleteOwner
  split
  · rfl
  · rename_i p hp
    exact if_pos (h.resolve_left (by rw [hp]; nofun))

variable (hp : createdPairOfByte (recordByte r 8) = some p) (hz : reservedZero r [(8, 8)] = true)
include hp hz

theorem queueDeleteOwner_noQueue (ha : s.pairs[p].state = .absent) :
    queueDeleteOwner r ref s = s.complete ref .noQueue 0 := by
  simp only [queueDeleteOwner, hp, hz, Bool.true_eq_false, if_false, if_pos ha]

theorem queueDeleteOwner_wrongState (ha : s.pairs[p].state ≠ .absent) (hd : s.pairs[p].deleting ≠ none) :
    queueDeleteOwner r ref s = s.complete ref .wrongState 0 := by
  simp only [queueDeleteOwner, hp, hz, Bool.true_eq_false, if_false, if_neg ha,
    if_pos (Option.isSome_iff_ne_none.2 hd)]

theorem queueDeleteOwner_begins (ha : s.pairs[p].state ≠ .absent) (hd : s.pairs[p].deleting = none) :
    queueDeleteOwner r ref s = (s.beginDeletion p ref).finishDeletion p := by
  simp only [queueDeleteOwner, hp, hz, Bool.true_eq_false, if_false, if_neg ha, hd, Option.isSome_none,
    Bool.false_eq_true]

end

theorem ActiveEntry.dropStage_eq (p : PairId) (a : ActiveEntry) : a.dropStage p = { a with run := { a.run with
    stage := a.run.stage.filter fun d => decide (d.ref.pair ≠ p) } } := by
  simp only [ActiveEntry.dropStage, CmdRef.not_from]

theorem Lane.dropPair_eq (p : PairId) (x : Lane) : x.dropPair p = { x with
    waitingTrain := x.waitingTrain.filter fun c => decide (c.pair ≠ p),
    queue := x.queue.filter fun q => decide (q.exchange.ref.pair ≠ p) } := by
  simp only [Lane.dropPair, CmdRef.not_from, dropRef_fst]

/-- Settles O49: the first part by what is dropped, the second by whether work is left. -/
theorem queueDeleteEndsThePairsWork : Obligations.QueueDeleteEndsThePairsWork := by
  unfold Obligations.QueueDeleteEndsThePairsWork
  refine ⟨fun s h hh h0 => ⟨fun hbad => ?_, fun p hp hb hz => ⟨fun ha => ?_, fun ha hd => ?_, fun ha hd => ?_⟩⟩,
    fun s p d hs hd hp => ?_⟩
  · refine .of_admin rfl hh h0 (queueDeleteOwner_badField ?_)
    exact (or_assoc.2 hbad).imp_left createdPairOfByte_none
  · exact .of_admin rfl hh h0 (queueDeleteOwner_noQueue (createdPairOfByte_some hp hb) hz ha)
  · exact .of_admin rfl hh h0 (queueDeleteOwner_wrongState (createdPairOfByte_some hp hb) hz ha hd)
  · intro busy retired
    obtain ⟨n, hbegin⟩ := State.beginDeletion_eq (s := s.taken) p h.ref rfl
    let u := s.taken.beginDeletion p h.ref
    have counts : s.taken.deletionRetires p = retired := rfl
    have here : u.pairs[p] = { s.pairs[p] with
        deleting := some { ref := h.ref, retired := retired }, handed := [], outstanding := n } := by
      rw [show u = _ from hbegin, counts]
      simp [State.taken]
    have others (q : PairId) (hq : q ≠ p) : u.pairs[q] = s.pairs[q] := by
      have other : (p : Nat) ≠ q := fun h' => hq (Fin.ext h'.symm)
      rw [show u = _ from hbegin]
      simp [State.taken, other]
    have lanes (l : LaneId) : u.lanes[l] = s.lanes[l].dropPair p := by
      rw [show u = _ from hbegin]
      simp [State.taken]
    have work : u.pairHasWork p = true ↔ busy := by
      have fetching : u.fetching = s.fetching := by rw [show u = _ from hbegin]; rfl
      simp only [State.pairHasWork_iff, lanes, here, fetching]
      rfl
    have active : u.active = s.active.map (ActiveEntry.dropStage p) := by rw [show u = _ from hbegin]; rfl
    have session : u.session = s.session.filter fun x => decide (x.owner ≠ p) := by rw [show u = _ from hbegin]; rfl
    have edit : u.edit = s.editWithout p := by rw [show u = _ from hbegin]; rfl
    have sc : u.sc = { s.sc with resign := (dropRef p s.sc.resign).1 } := by rw [show u = _ from hbegin]; rfl
    have rest : u.rings = s.rings ∧ u.ew = s.ew ∧ u.hm = s.hm ∧ u.outputs = s.outputs ∧ u.buffers = s.buffers := by
      rw [show u = _ from hbegin]
      exact ⟨rfl, rfl, rfl, rfl, rfl⟩
    obtain ⟨hrings, hew, hhm, hout, hbuf⟩ := rest
    have ended : ¬ busy → u.finishDeletion p = u.endDeletion p ⟨h.ref, retired⟩ := fun hbusy =>
      State.finishDeletion_done (by rw [here]) (Bool.eq_false_iff.2 fun hw => hbusy (work.1 hw))
    have pair0 : h.ref.pair = 0 := h0
    obtain ⟨hreset, hbuffers, howed, hact', hses', hedit', hlanes', hsc', hrings', hew', hhm'⟩ :=
      State.endDeletion_spec (s := u) (d := ⟨h.ref, retired⟩) (p := p) (by rw [pair0]; exact hp.symm)
    have kept : (u.finishDeletion p).active = u.active ∧ (u.finishDeletion p).session = u.session ∧
        (u.finishDeletion p).edit = u.edit ∧ (u.finishDeletion p).lanes = u.lanes ∧ (u.finishDeletion p).sc = u.sc ∧
        (u.finishDeletion p).rings = u.rings ∧ (u.finishDeletion p).ew = u.ew ∧ (u.finishDeletion p).hm = u.hm := by
      by_cases hbusy : busy
      · rw [State.finishDeletion_busy (work.2 hbusy)]
        exact ⟨rfl, rfl, rfl, rfl, rfl, rfl, rfl, rfl⟩
      · rw [ended hbusy]
        exact ⟨hact', hses', hedit', hlanes', hsc', hrings', hew', hhm'⟩
    obtain ⟨kact, kses, kedit, klanes, ksc, krings, kew, khm⟩ := kept
    refine ⟨u.finishDeletion p, exec_admin rfl hh h0
      (queueDeleteOwner_begins (createdPairOfByte_some hp hb) hz ha hd), fun x hx => ⟨fun ho => ?_, fun ho => ?_⟩, ?_,
      fun l => ?_, ?_, krings.trans hrings, kew.trans hew, khm.trans hhm, fun hbusy => ?_, fun hbusy => ?_⟩
    · rw [kses, kedit, session, edit, State.editWithout, hx]
      simp [ho, Option.filter]
    · rw [kses, kedit, session, edit, State.editWithout, hx]
      simp [ho, Option.filter]
    · rw [kact, active]
      exact List.map_congr_left fun a _ => a.dropStage_eq p
    · simp only [klanes]
      rw [lanes l, Lane.dropPair_eq]
    · rw [ksc, sc, dropRef_fst]
    · rw [State.finishDeletion_busy (work.2 hbusy)]
      exact ⟨hout, hbuf, others, by rw [here]⟩
    · rw [ended hbusy]
      refine ⟨hreset, by rw [hbuffers, hbuf], fun hserves => ?_⟩
      simp only [pair0] at howed
      rw [others 0 hp.symm, hbuf] at howed
      exact howed hserves
  · intro busy
    have served : exec (.queueDeleteFinish p) s = .next (s.finishDeletion p) :=
      congrArg Host.Outcome.next (if_pos hs)
    refine ⟨fun hbusy => ?_, fun hbusy => ⟨s.finishDeletion p, served, ?_⟩⟩
    · rw [served, State.finishDeletion_busy (State.pairHasWork_iff.2 hbusy)]
    · rw [State.finishDeletion_done hd (Bool.eq_false_iff.2 fun hw => hbusy (State.pairHasWork_iff.1 hw))]
      obtain ⟨hreset, hbuffers, howed, hact, hses, -, hlanes, hsc, hrings, -⟩ := State.endDeletion_spec (s := s) hp
      exact ⟨hreset, hbuffers, howed, hlanes, hact, hses, hsc, hrings⟩

end Sys2Proof.Machine

namespace Sys2Proof.Machine

set_option Elab.async false

/-! ### ENABLE (R166, R172) -/

theorem State.adminValid_iff {s : State} : s.adminValid = true ↔
    s.adminSq.toNat % 64 = 0 ∧ s.adminCq.toNat % 64 = 0 ∧ 2 ≤ s.adminDepth.toNat ∧ s.adminDepth.toNat ≤ 12 := by
  simp [State.adminValid, and_assoc]

section
variable {s : State} (he : s.enable = false)
include he

theorem State.enableSet_valid (hv : s.adminValid = true) :
    s.enableSet = { s with enable := true, dev := .config }.setPair 0 s.adminPair := by
  rw [State.enableSet, he, hv]
  rfl

theorem State.enableSet_bad (hv : s.adminValid = false) :
    s.enableSet = { s with enable := true }.enterFatal .badAdmin .none := by
  rw [State.enableSet, he, hv]
  rfl

end

/-! ### Register writes (R163) -/

theorem State.writeRegister_other (s : State) (v : Reg) {offset : Nat}
    (h : offset = 0x00 ∨ offset = 0x08 ∨ offset % 4 ≠ 0 ∨ 0x38 < offset) : s.writeRegister offset v = s := by
  unfold State.writeRegister
  split <;> first | rfl | omega

theorem State.registerWrite_word (s : State) (offset : Nat) (v : Reg) :
    exec (.registerWrite offset 4 v) s = .next (s.writeRegister offset v) :=
  congrArg Host.Outcome.next (if_pos rfl)

/-! ### Register reads (R163, R164) -/

theorem State.readWord_other (s : State) {offset : Nat} (h : offset % 4 ≠ 0 ∨ 0x38 < offset) : s.readWord offset = 0 := by
  unfold State.readWord
  split <;> first | rfl | omega

theorem State.readRegister_word (s : State) (offset : Nat) : s.readRegister offset 4 = s.readWord offset := if_pos rfl

theorem DevState.code_lt (d : DevState) : d.code < 8 := by cases d <;> decide
theorem SyncState.code_lt (x : SyncState) : x.code < 4 := by cases x <;> decide
theorem Role.code_lt (x : Role) : x.code < 4 := by cases x <;> decide
theorem FatalCause.code_lt (x : FatalCause) : x.code < 4 := by cases x <;> decide
theorem PairFault.code_lt (x : PairFault) : x.code < 8 := by cases x <;> decide
theorem HaltCause.code_lt (x : HaltCause) : x.code < 4 := by cases x <;> decide
theorem bit_lt_two (b : Bool) : bit b < 2 := by cases b <;> decide

/-- The number that a word of packed fields is, before it is cut to the word. -/
def packed (fields : List (Nat × Nat)) : Nat := (fields.map fun f => f.1 * 2 ^ f.2).sum

theorem packed_nil : packed [] = 0 := rfl

theorem packed_cons (a k : Nat) (fields : List (Nat × Nat)) : packed ((a, k) :: fields) = a * 2 ^ k + packed fields := by
  unfold packed
  rw [List.map_cons, List.sum_cons]

theorem pack_toNat (fields : List (Nat × Nat)) : (pack fields).toNat = packed fields % 2 ^ 32 := BitVec.toNat_ofNat ..

/-- The number that STATUS is, as the sum of its fields at their places (R164). -/
theorem State.statusWord_toNat (s : State) : s.statusWord.toNat = s.dev.code + bit s.hm.degraded * 2 ^ 3 +
    s.sc.sync.code * 2 ^ 4 + s.sc.role.code * 2 ^ 6 + bit (decide (s.ew.state = .error)) * 2 ^ 8 +
    s.fatalCause.code * 2 ^ 9 + s.adminFault.code * 2 ^ 11 + s.haltCause.code * 2 ^ 14 := by
  have h1 := s.dev.code_lt
  have h2 := bit_lt_two s.hm.degraded
  have h3 := s.sc.sync.code_lt
  have h4 := s.sc.role.code_lt
  have h5 := bit_lt_two (decide (s.ew.state = .error))
  have h6 := s.fatalCause.code_lt
  have h7 := s.adminFault.code_lt
  have h8 := s.haltCause.code_lt
  simp only [State.statusWord, pack_toNat, packed_cons, packed_nil]
  omega

/-- A field that stands in a number between what is below it and what is above it. -/
theorem field_of_sum {n x y z k w : Nat} (h : n = x + (y + z * 2 ^ w) * 2 ^ k) (hx : x < 2 ^ k) (hy : y < 2 ^ w) :
    n / 2 ^ k % 2 ^ w = y := by
  rw [h, Nat.add_mul_div_right _ _ (Nat.two_pow_pos k), Nat.div_eq_of_lt hx, Nat.zero_add, Nat.add_mul_mod_self_right,
    Nat.mod_eq_of_lt hy]

/-- Each field of STATUS is read back from its place (R164). -/
theorem State.statusWord_fields (s : State) :
    (s.statusWord.extractLsb' 0 3).toNat = s.dev.code ∧ (s.statusWord.extractLsb' 3 1).toNat = bit s.hm.degraded ∧
      (s.statusWord.extractLsb' 4 2).toNat = s.sc.sync.code ∧ (s.statusWord.extractLsb' 6 2).toNat = s.sc.role.code ∧
      (s.statusWord.extractLsb' 8 1).toNat = bit (decide (s.ew.state = .error)) ∧
      (s.statusWord.extractLsb' 9 2).toNat = s.fatalCause.code ∧
      (s.statusWord.extractLsb' 11 3).toNat = s.adminFault.code ∧
      (s.statusWord.extractLsb' 14 2).toNat = s.haltCause.code ∧ (s.statusWord.extractLsb' 16 16).toNat = 0 := by
  have h1 := s.dev.code_lt
  have h2 := bit_lt_two s.hm.degraded
  have h3 := s.sc.sync.code_lt
  have h4 := s.sc.role.code_lt
  have h5 := bit_lt_two (decide (s.ew.state = .error))
  have h6 := s.fatalCause.code_lt
  have h7 := s.adminFault.code_lt
  have h8 := s.haltCause.code_lt
  have field {k w x y z : Nat} (hn : s.statusWord.toNat = x + (y + z * 2 ^ w) * 2 ^ k) (hx : x < 2 ^ k)
      (hy : y < 2 ^ w) : (s.statusWord.extractLsb' k w).toNat = y := by
    rw [BitVec.extractLsb'_toNat, Nat.shiftRight_eq_div_pow]
    exact field_of_sum hn hx hy
  have total := s.statusWord_toNat
  generalize s.sc.sync.code = y at total h3 ⊢
  generalize s.sc.role.code = r at total h4 ⊢
  generalize bit (decide (s.ew.state = .error)) = e at total h5 ⊢
  generalize s.fatalCause.code = f at total h6 ⊢
  generalize s.adminFault.code = a at total h7 ⊢
  generalize s.haltCause.code = c at total h8 ⊢
  refine ⟨field (x := 0) (z := bit s.hm.degraded + (y + (r + (e + (f + (a + c * 8) * 4) * 2) * 4) * 4) * 2) ?_ ?_ h1,
    field (x := s.dev.code) (z := y + (r + (e + (f + (a + c * 8) * 4) * 2) * 4) * 4) ?_ h1 h2,
    field (x := s.dev.code + bit s.hm.degraded * 8) (z := r + (e + (f + (a + c * 8) * 4) * 2) * 4) ?_ ?_ h3,
    field (x := s.dev.code + bit s.hm.degraded * 8 + y * 16) (z := e + (f + (a + c * 8) * 4) * 2) ?_ ?_ h4,
    field (x := s.dev.code + bit s.hm.degraded * 8 + y * 16 + r * 64) (z := f + (a + c * 8) * 4) ?_ ?_ h5,
    field (x := s.dev.code + bit s.hm.degraded * 8 + y * 16 + r * 64 + e * 256) (z := a + c * 8) ?_ ?_ h6,
    field (x := s.dev.code + bit s.hm.degraded * 8 + y * 16 + r * 64 + e * 256 + f * 512) (z := c) ?_ ?_ h7,
    field (x := s.dev.code + bit s.hm.degraded * 8 + y * 16 + r * 64 + e * 256 + f * 512 + a * 2048) (z := 0) ?_ ?_ h8,
    field (x := s.statusWord.toNat) (y := 0) (z := 0) (by omega) ?_ (by decide)⟩
  all_goals omega

/-- Settles O57: ENABLE by the admin registers, then writes and reads offset by offset. -/
theorem registerWritesAndEnable : Obligations.RegisterWritesAndEnable := by
  unfold Obligations.RegisterWritesAndEnable
  refine ⟨fun s => ⟨fun he => congrArg Host.Outcome.next (if_pos he), fun he hv => ?_, fun he hv => ?_⟩,
    fun s v => ⟨fun offset size hn => congrArg Host.Outcome.next (if_neg hn), fun hb => ?_, fun hb => ?_, rfl, rfl, ?_,
      fun p => ?_, fun p => ?_, rfl, fun offset h => ?_⟩,
    fun s => ⟨fun offset size h => ?_, rfl, ?_, rfl, rfl, ?_, fun p => ?_, fun p => ?_, rfl, ?_⟩⟩
  · exact congrArg Host.Outcome.next (State.enableSet_valid he (State.adminValid_iff.2 hv))
  · have bad : s.adminValid = false := Bool.eq_false_iff.2 fun h => hv (State.adminValid_iff.1 h)
    obtain ⟨ps, hdrop⟩ := ({ s with enable := true } : State).dropHeld_shape
    have kept : (State.enterFatal { s with enable := true } .badAdmin .none).enable = true ∧
        (State.enterFatal { s with enable := true } .badAdmin .none).active = s.active := by
      rw [State.enterFatal, hdrop]
      exact ⟨rfl, rfl⟩
    refine ⟨_, congrArg Host.Outcome.next (State.enableSet_bad he bad), kept.1, rfl, rfl, rfl, rfl, rfl, kept.2,
      fun p => ?_⟩
    rw [State.enterFatal_pair]
    rfl
  · rw [State.registerWrite_word]
    exact congrArg Host.Outcome.next (if_pos hb)
  · rw [State.registerWrite_word]
    exact congrArg Host.Outcome.next (if_neg (by rw [hb]; exact Bool.false_ne_true))
  · rw [← BitVec.setWidth_eq_extractLsb' (by decide)]
    rfl
  · fin_cases p <;> rfl
  · fin_cases p <;> rfl
  · rw [State.registerWrite_word, State.writeRegister_other s v h]
  · unfold State.readRegister
    split
    · rename_i h4
      exact State.readWord_other s (h.resolve_left (not_not.2 h4))
    · rfl
  · change pack [(bit s.enable, 0)] = _
    cases s.enable <;> rfl
  · exact (BitVec.ofNat_toNat 32 s.adminDepth).symm
  · fin_cases p <;> rfl
  · fin_cases p <;> rfl
  · have word : s.readRegister 0x08 4 = s.statusWord := rfl
    obtain ⟨h1, h2, h3, h4, h5, h6, h7, h8, h9⟩ := s.statusWord_fields
    simp only [word]
    refine ⟨h1.trans ?_, h2, h3.trans ?_, h4.trans ?_, h5.trans ?_, h6.trans ?_, h7.trans ?_, h8.trans ?_,
      BitVec.eq_of_toNat_eq h9⟩
    · cases s.dev <;> rfl
    · cases s.sc.sync <;> rfl
    · cases s.sc.role <;> rfl
    · simp [bit]
    · cases s.fatalCause <;> rfl
    · cases s.adminFault <;> rfl
    · cases s.haltCause <;> rfl

end Sys2Proof.Machine

namespace Sys2Proof.Machine

set_option Elab.async false

/-! ### Reports, byte by byte (section 11.4) -/

/-- The fields of an entry record. -/
def entryFields (e : Entry) : List (Nat × Nat) :=
  [(1, e.handle), (1, e.kind.code), (1, e.lane.val), (1, e.period), (1, e.phase), (1, e.outCount), (1, e.inCount),
    (1, e.mode.code), (1, e.ring.val), (1, e.notify.code), (2, e.mark), (2, e.window), (2, 0)]

/-- The fields of the runtime parts of a READ ENTRY report. -/
def runtimeFields (run : Option Runtime) : List (Nat × Nat) :=
  run.elim [(1, 1), (1, 0), (1, 0)] fun r =>
    [(1, 0), (1, r.score),
      (1, bit r.disabled + 2 * bit r.waiting.isSome + 4 * bit r.current.isSome + 8 * bit r.stage.isSome)]

theorem entryReport_fields (e : Entry) (n : Nat) (run : Option Runtime) :
    entryReport e n run = fieldsBytes (entryFields e ++ (1, n) :: (runtimeFields run ++ [(12, 0)])) := by
  cases run <;> simp [entryReport, entryBytes, entryFields, runtimeFields, fieldsBytes]

theorem ValueMode.code_lt (m : ValueMode) : m.code < 256 := by cases m <;> decide
theorem Notify.code_lt (n : Notify) : n.code < 256 := by cases n <;> decide
theorem LaneState.code_lt (x : LaneState) : x.code < 256 := by cases x <;> decide
theorem LaneRate.code_lt (x : LaneRate) : x.code < 256 := by cases x <;> decide
theorem TrimState.code_lt (x : TrimState) : x.code < 256 := by cases x <;> decide

/-- A record that begins with the fields of an entry is its entry record. -/
theorem IsEntryRecord.of_fields {b : List Byte} {e : Entry} {rest : List (Nat × Nat)}
    (h : b = fieldsBytes (entryFields e ++ rest)) : IsEntryRecord b 0 e := by
  refine ⟨bytesField_fields 0 h rfl rfl, (bytesField_fields 1 h rfl rfl).trans (Nat.mod_eq_of_lt (e.kind.code_lt.trans (by decide))),
    (bytesField_fields 2 h rfl rfl).trans (Nat.mod_eq_of_lt (by omega)), bytesField_fields 3 h rfl rfl,
    bytesField_fields 4 h rfl rfl, bytesField_fields 5 h rfl rfl, bytesField_fields 6 h rfl rfl,
    (bytesField_fields 7 h rfl rfl).trans (Nat.mod_eq_of_lt e.mode.code_lt),
    (bytesField_fields 8 h rfl rfl).trans (Nat.mod_eq_of_lt (by omega)),
    (bytesField_fields 9 h rfl rfl).trans (Nat.mod_eq_of_lt e.notify.code_lt), bytesField_fields 10 h rfl rfl,
    bytesField_fields 11 h rfl rfl, bytesField_fields 12 h rfl rfl⟩

theorem entryReport_bytes (e : Entry) (n : Nat) (run : Option Runtime) : let b := entryReport e n run
    b.length = 32 ∧ IsEntryRecord b 0 e ∧ bytesField b 16 1 = n % 256 ∧
      bytesField b 17 1 = (if run = none then 1 else 0) ∧ bytesField b 20 12 = 0 ∧
      (run = none → bytesField b 18 2 = 0) ∧
      (∀ r, run = some r → bytesField b 18 1 = r.score % 256 ∧
        bytesField b 19 1 = bit r.disabled + 2 * bit r.waiting.isSome + 4 * bit r.current.isSome +
          8 * bit r.stage.isSome) := by
  intro b
  have shape := entryReport_fields e n run
  have whole : IsEntryRecord b 0 e := .of_fields shape
  have length : b.length = 32 := by
    rw [show b = _ from shape, fieldsBytes_length]
    cases run <;> simp [entryFields, runtimeFields]
  have after {i m : Nat} (hi : 16 ≤ i) :
      bytesField b i m = bytesField (fieldsBytes ((1, n) :: (runtimeFields run ++ [(12, 0)]))) (i - 16) m := by
    have front : (fieldsBytes (entryFields e)).length = 16 := by simp [entryFields]
    have parts : b = fieldsBytes (entryFields e) ++ fieldsBytes ((1, n) :: (runtimeFields run ++ [(12, 0)])) := by
      rw [show b = _ from shape, fieldsBytes, List.flatMap_append]
      rfl
    rw [parts, bytesField_append_right (by rw [front]; exact hi), front]
  refine ⟨length, whole, ?_⟩
  rw [after (by decide), after (by decide), after (by decide), after (by decide), after (by decide), after (by decide)]
  cases run with
  | none =>
    have zeros : fieldsBytes ((1, n) :: (runtimeFields none ++ [(12, 0)])) = fieldsBytes [(1, n), (1, 1), (2, 0), (12, 0)] :=
      congrArg (leBytes 1 n ++ ·)
        (show fieldsBytes (runtimeFields none ++ [(12, 0)]) = fieldsBytes [(1, 1), (2, 0), (12, 0)] by decide)
    exact ⟨bytesField_fields 0 zeros rfl rfl, (bytesField_fields 1 zeros rfl rfl).trans (if_pos rfl).symm,
      bytesField_fields 3 zeros rfl rfl, fun _ => bytesField_fields 2 zeros rfl rfl, fun r hr => nomatch hr⟩
  | some x =>
    have fields : fieldsBytes ((1, n) :: (runtimeFields (some x) ++ [(12, 0)])) = fieldsBytes [(1, n), (1, 0), (1, x.score),
        (1, bit x.disabled + 2 * bit x.waiting.isSome + 4 * bit x.current.isSome + 8 * bit x.stage.isSome), (12, 0)] := rfl
    refine ⟨bytesField_fields 0 fields rfl rfl,
      (bytesField_fields 1 fields rfl rfl).trans (if_neg (Option.some_ne_none x)).symm, bytesField_fields 4 fields rfl rfl,
      fun h => absurd h (Option.some_ne_none x), fun r hr => ?_⟩
    cases hr
    have h1 := bit_lt_two x.disabled
    have h2 := bit_lt_two x.waiting.isSome
    have h3 := bit_lt_two x.current.isSome
    have h4 := bit_lt_two x.stage.isSome
    exact ⟨bytesField_fields 2 fields rfl rfl, (bytesField_fields 3 fields rfl rfl).trans (Nat.mod_eq_of_lt (by omega))⟩

theorem laneReport_fields (x : Lane) : laneReport x = fieldsBytes
    [(1, x.state.code), (1, x.rate.code), (1, bit x.autoRetrain), (1, x.retrainDelay), (1, bit x.staleNotify),
      (1, x.sequence.toNat), (1, x.failures), (1, x.queue.length), (1, x.inFlightCode),
      (1, if x.state = .training then x.probesSent else 0), (1, if x.state = .training then x.goodRun else 0),
      (1, bit (decide (x.state = .faulted) && x.retrainTimer.isSome)), (4, 0)] := by
  simp [laneReport, fieldsBytes]

theorem Lane.inFlightCode_lt (x : Lane) : x.inFlightCode < 256 := by
  unfold Lane.inFlightCode
  split
  · decide
  · split <;> decide

theorem ite_zero_mod (c : Prop) [Decidable c] (n m : Nat) : (if c then n else 0) % m = if c then n % m else 0 := by
  split
  · rfl
  · exact Nat.zero_mod m

theorem timeReport_fields (t : TimeSync) : timeReport t = fieldsBytes
    [(4, t.localTime.toNat), (2, t.cycleTime), (1, t.cycleCount), (1, t.sync.code), (1, t.role.code),
      (1, t.trimState.code), (1, if t.trimState = .suspended then t.goodRun else 0),
      (1, bit t.hold + 2 * bit t.plan.isSome + 4 * bit t.lastLeader.isNone), (4, (BitVec.ofInt 32 t.trim).toNat),
      (1, (t.lastLeader.map Prod.fst).getD 0), (1, (t.lastLeader.map Prod.snd).getD 0), (14, 0)] := by
  simp [timeReport, fieldsBytes]

/-! ### The report commands (R11, R81, R122) -/

theorem positionOf_eq (e : Entry) (table : List Entry) : positionOf e table = table.countP fun x => x.before e := by
  rw [positionOf, List.countP_eq_length_filter]

section
variable {r : CommandRecord} {ref : CmdRef} {s : State}

theorem readEntryOwner_badField (h : 1 < recordByte r 9 ∨ reservedZero r [(8, 9), (16, 23)] = false) :
    readEntryOwner r ref s = s.complete ref .badField 0 := if_pos h

variable (hz : reservedZero r [(8, 9), (16, 23)] = true)
include hz

theorem readEntryOwner_active (ht : recordByte r 9 = 0) : readEntryOwner r ref s =
    (s.findActive (recordByte r 8)).elim (s.complete ref .noEntry 0) fun a =>
      s.beginReport ref (recordAddress r 16)
        (entryReport a.entry (s.activeEntries.countP fun x => x.before a.entry) (some a.run)) := by
  unfold readEntryOwner
  simp only [hz, ht, positionOf_eq]
  cases s.findActive (recordByte r 8) <;> rfl

theorem readEntryOwner_noSession (ht : recordByte r 9 = 1) (hs : s.session = none) :
    readEntryOwner r ref s = s.complete ref .noSession 0 := by
  unfold readEntryOwner
  simp only [hz, ht, hs]
  rfl

theorem readEntryOwner_edit (ht : recordByte r 9 = 1) (hs : s.session ≠ none) : readEntryOwner r ref s =
    (findHandle (recordByte r 8) s.edit).elim (s.complete ref .noEntry 0) fun e =>
      s.beginReport ref (recordAddress r 16) (entryReport e (s.edit.countP fun x => x.before e) none) := by
  obtain ⟨x, hx⟩ := Option.ne_none_iff_exists'.1 hs
  unfold readEntryOwner
  simp only [hz, ht, hx, positionOf_eq]
  cases findHandle (recordByte r 8) s.edit <;> rfl

omit hz

theorem readLaneOwner_badField (h : laneOfByte (recordByte r 8) = none ∨ reservedZero r [(8, 8), (16, 23)] = false) :
    readLaneOwner r ref s = s.complete ref .badField 0 := by
  unfold readLaneOwner
  split
  · rfl
  · rename_i l hl
    exact if_pos (h.resolve_left (by rw [hl]; nofun))

theorem readLaneOwner_reports {l : LaneId} (hl : laneOfByte (recordByte r 8) = some l)
    (hz : reservedZero r [(8, 8), (16, 23)] = true) :
    readLaneOwner r ref s = s.beginReport ref (recordAddress r 16) (laneReport s.lanes[l]) := by
  simp only [readLaneOwner, hl, hz, Bool.true_eq_false, if_false]

end

/-- Settles O54: each command by its checks in order, each report by its fields. -/
theorem reportsAreWrittenBeforeTheyComplete : Obligations.ReportsAreWrittenBeforeTheyComplete := by
  unfold Obligations.ReportsAreWrittenBeforeTheyComplete
  intro s h reports
  refine ⟨fun hh => ⟨fun hbad => .of_owner rfl hh (readEntryOwner_badField hbad), fun hz => ⟨fun ht ha => ?_,
      fun a ht ha => ?_, fun ht hs => .of_owner rfl hh (readEntryOwner_noSession hz ht hs), fun ht hs he => ?_,
      fun e ht hs he => ?_⟩⟩,
    fun hh => ⟨fun hbad => .of_owner rfl hh (readLaneOwner_badField (hbad.imp_left laneOfByte_none)),
      fun l hl hz => exec_held rfl hh (readLaneOwner_reports (laneOfByte_some hl) hz)⟩,
    fun hh => ⟨fun hbad => .of_owner rfl hh (if_pos hbad), fun hz => exec_held rfl hh (if_neg (by rw [hz]; nofun))⟩,
    entryReport_bytes, fun x => ?_, fun x => ?_⟩
  · have none : s.taken.findActive (recordByte h.record 8) = none := ha
    exact .of_owner rfl hh ((readEntryOwner_active hz ht).trans (by rw [none]; rfl))
  · have some : s.taken.findActive (recordByte h.record 8) = some a := ha
    exact exec_held rfl hh ((readEntryOwner_active hz ht).trans (by rw [some]; rfl))
  · have none : findHandle (recordByte h.record 8) s.edit = none := he
    exact .of_owner rfl hh ((readEntryOwner_edit (s := s.taken) hz ht hs).trans (by rw [show s.taken.edit = s.edit from rfl, none]; rfl))
  · have some : findHandle (recordByte h.record 8) s.edit = some e := he
    exact exec_held rfl hh ((readEntryOwner_edit (s := s.taken) hz ht hs).trans (by rw [show s.taken.edit = s.edit from rfl, some]; rfl))
  · have shape := laneReport_fields x
    refine ⟨by rw [shape, fieldsBytes_length]; rfl,
      ((bytesField_fields 0 shape rfl rfl).trans (Nat.mod_eq_of_lt x.state.code_lt)).trans ?_,
      ((bytesField_fields 1 shape rfl rfl).trans (Nat.mod_eq_of_lt x.rate.code_lt)).trans ?_,
      (bytesField_fields 2 shape rfl rfl).trans (bit_mod _), bytesField_fields 3 shape rfl rfl,
      (bytesField_fields 4 shape rfl rfl).trans (bit_mod _),
      (bytesField_fields 5 shape rfl rfl).trans (bitVec_toNat_mod _ rfl), bytesField_fields 6 shape rfl rfl,
      bytesField_fields 7 shape rfl rfl,
      ((bytesField_fields 8 shape rfl rfl).trans (Nat.mod_eq_of_lt x.inFlightCode_lt)).trans ?_,
      (bytesField_fields 9 shape rfl rfl).trans (ite_zero_mod _ _ _),
      (bytesField_fields 10 shape rfl rfl).trans (ite_zero_mod _ _ _),
      ((bytesField_fields 11 shape rfl rfl).trans (bit_mod _)).trans ?_, bytesField_fields 12 shape rfl rfl⟩
    · cases x.state <;> rfl
    · cases x.rate <;> rfl
    · unfold Lane.inFlightCode
      cases x.inFlight with
      | none => rfl
      | some e => cases hs : e.source <;> simp [hs]
    · simp [bit, Option.isSome_iff_ne_none]
  · have shape := timeReport_fields x
    have h1 := bit_lt_two x.hold
    have h2 := bit_lt_two x.plan.isSome
    have h3 := bit_lt_two x.lastLeader.isNone
    refine ⟨by rw [shape, fieldsBytes_length]; rfl, (bytesField_fields 0 shape rfl rfl).trans (bitVec_toNat_mod _ rfl),
      bytesField_fields 1 shape rfl rfl, bytesField_fields 2 shape rfl rfl,
      ((bytesField_fields 3 shape rfl rfl).trans (Nat.mod_eq_of_lt (x.sync.code_lt.trans (by decide)))).trans ?_,
      ((bytesField_fields 4 shape rfl rfl).trans (Nat.mod_eq_of_lt (x.role.code_lt.trans (by decide)))).trans ?_,
      ((bytesField_fields 5 shape rfl rfl).trans (Nat.mod_eq_of_lt x.trimState.code_lt)).trans ?_,
      (bytesField_fields 6 shape rfl rfl).trans (ite_zero_mod _ _ _),
      (bytesField_fields 7 shape rfl rfl).trans (Nat.mod_eq_of_lt (by omega)),
      (bytesField_fields 8 shape rfl rfl).trans (bitVec_toNat_mod _ rfl),
      (bytesField_fields 9 shape rfl rfl).trans ?_, (bytesField_fields 10 shape rfl rfl).trans ?_,
      bytesField_fields 11 shape rfl rfl⟩
    · cases x.sync <;> rfl
    · cases x.role <;> rfl
    · cases x.trimState <;> rfl
    · cases x.lastLeader <;> rfl
    · cases x.lastLeader <;> rfl

end Sys2Proof.Machine

/-! PROOFS. The Time Base and Sync Controller: the cycle plan, beacons, and the ends of cycles. -/

namespace Sys2Proof.Machine

set_option Elab.async false

/-! ### SET CYCLE PLAN and RESIGN (R96, R97, R110) -/

theorem candidateOfCode_some {n : Nat} {c : Bool} : candidateOfCode n = some c ↔ (if c then 1 else 2) = n := by
  unfold candidateOfCode
  cases c <;> split <;> simp_all [eq_comm]

theorem flagByte_eq_some {n : Nat} {b : Bool} : flagByte n = some b ↔ (if b then 1 else 0) = n := by
  unfold flagByte
  cases b <;> split_ifs <;> simp_all [eq_comm]

/-- The ranges of R96. -/
theorem Plan.fits_iff {p : Plan} : p.fits = true ↔
    50 ≤ p.stu ∧ p.stu ≤ 10000 ∧ 64 ≤ p.bm ∧ p.bm ≤ 60000 ∧ p.matrix ∈ [1, 2, 4, 8, 16, 32, 64] ∧
      2 ≤ p.stagger ∧ p.stagger ≤ 255 ∧ 9 * p.stagger + 16 ≤ p.watchMargin ∧ p.bm + p.watchMargin ≤ 65535 ∧
      p.rank ≤ 7 ∧ (p.candidate = false → p.rank = 0) ∧ p.unit ≤ 31 ∧ 50 ≤ p.trimLimit ∧ p.trimLimit ≤ 2000 := by
  simp only [Plan.fits, Bool.and_eq_true, Bool.or_eq_true, decide_eq_true_eq, powerOfTwoIn_period, and_assoc,
    or_iff_not_imp_left, Bool.not_eq_true]

/-- A record is accepted by its codes, its ranges and its zero bytes, and gives the plan of its bytes (R96, R97). -/
theorem recordPlan_eq_some {r : CommandRecord} {p : Plan} : recordPlan r = some p ↔
    candidateOfCode (recordByte r 16) = some p.candidate ∧ flagByte (recordByte r 19) = some p.reports ∧
      p = { stu := recordField16 r 8, bm := recordField16 r 10, matrix := recordByte r 12, stagger := recordByte r 13,
            watchMargin := recordField16 r 14, candidate := p.candidate, rank := recordByte r 17, unit := recordByte r 18,
            trimLimit := recordField16 r 20, reports := p.reports } ∧
      p.fits = true ∧ reservedZero r [(8, 21)] = true := by
  unfold recordPlan
  cases hc : candidateOfCode (recordByte r 16) with
  | none => simp
  | some c =>
    cases hf : flagByte (recordByte r 19) with
    | none => simp
    | some f =>
      simp only [Option.ite_none_right_eq_some, Option.some.injEq, Bool.and_eq_true]
      constructor
      · rintro ⟨⟨hfit, hz⟩, rfl⟩
        exact ⟨rfl, rfl, rfl, hfit, hz⟩
      · rintro ⟨rfl, rfl, hp, hfit, hz⟩
        rw [hp] at hfit
        exact ⟨⟨hfit, hz⟩, hp.symm⟩

section
variable {r : CommandRecord} {ref : CmdRef} {s : State}

theorem setPlanOwner_wrongState (h : s.dev ≠ .config) : setPlanOwner r ref s = s.complete ref .wrongState 0 := if_pos h

theorem setPlanOwner_config (h : s.dev = .config) : setPlanOwner r ref s =
    (recordPlan r).elim (s.complete ref .badField 0) fun p =>
      { s with sc := { s.sc with plan := some p, role := if p.candidate then .backup else .follower } }.complete ref .ok 0 := by
  rw [setPlanOwner, if_neg (not_not.2 h)]
  cases recordPlan r <;> rfl

end

/-- Settles O39: the record by its codes and ranges, the two commands by their checks in order. -/
theorem planIsSetAndLeaderResigns : Obligations.PlanIsSetAndLeaderResigns := by
  unfold Obligations.PlanIsSetAndLeaderResigns
  refine ⟨fun r p => ?_, fun s h hh h0 => ⟨fun hd => .of_admin rfl hh h0 (setPlanOwner_wrongState hd), fun hd =>
      ⟨fun hn => ?_, fun p hp => ?_⟩⟩,
    fun s h hh => ⟨fun hz => .of_owner rfl hh (if_pos hz), fun hz => ⟨fun hr => ?_, fun hr hhold => ?_,
      fun hr hhold => ?_⟩⟩⟩
  · rw [recordPlan_eq_some, candidateOfCode_some, flagByte_eq_some, Plan.fits_iff]
    obtain ⟨stu, bm, matrix, stagger, margin, candidate, rank, unit, limit, reports⟩ := p
    simp only [Plan.mk.injEq]
    tauto
  · exact .of_admin rfl hh h0 ((setPlanOwner_config (s := s.taken) hd).trans (by rw [hn]; rfl))
  · exact .of_admin rfl hh h0 ((setPlanOwner_config (s := s.taken) hd).trans (by rw [hp]; rfl))
  all_goals have open_ : ¬ reservedZero h.record [] = false := by rw [hz]; nofun
  · exact .of_owner rfl hh ((if_neg open_).trans (if_pos hr))
  · exact .of_owner rfl hh ((if_neg open_).trans ((if_neg (not_not.2 hr)).trans (if_pos hhold)))
  · exact exec_held rfl hh ((if_neg open_).trans ((if_neg (not_not.2 hr)).trans
      (if_neg (by rw [show s.taken.sc.hold = _ from hhold]; nofun))))

/-! ### Beacon starts (R105 to R107) -/

theorem SyncState.hasCycle_iff {y : SyncState} : y.hasCycle = true ↔ y = .acquiring ∨ y = .locked := decide_eq_true_iff

theorem TimeSync.pairIdle_iff {t : TimeSync} : t.pairIdle = true ↔ t.receiving = none ∧ t.sending = none := by
  simp [TimeSync.pairIdle]

theorem State.mayBeacon_iff {s : State} {p : Plan} : s.mayBeacon p = true ↔
    s.dev = .running ∧ p.candidate = true ∧ s.sc.receiving = none ∧ s.sc.sending = none ∧ s.sc.activity = false ∧
      s.sc.hold = false := by
  simp [State.mayBeacon, TimeSync.pairIdle_iff, and_assoc]

section
variable {s : State} {p : Plan} (hp : s.sc.plan = some p)
include hp

theorem State.leaderBeaconStart_eq :
    s.leaderBeaconStart = if s.leaderDue p then s.beginBeacon p (s.nextCount p) false else s := by
  rw [State.leaderBeaconStart, hp]

theorem State.backupBeaconStart_eq :
    s.backupBeaconStart = if s.backupDue p then s.beginBeacon p (s.nextCount p) true else s := by
  rw [State.backupBeaconStart, hp]

theorem State.freeRunBeaconStart_eq : s.freeRunBeaconStart = if s.freeRunDue p then s.beginBeacon p 0 true else s := by
  rw [State.freeRunBeaconStart, hp]

end

/-- Settles O40: each start is its own beacon where it is due, and nothing where it is not. -/
theorem beaconsStartWhenDue : Obligations.BeaconsStartWhenDue := by
  unfold Obligations.BeaconsStartWhenDue
  intro s p c count restart hp may cycles due
  have starts {d : Bool} {D : Prop} {t : State} (hc : exec c s = .next t)
      (ht : t = if d then s.beginBeacon p count restart else s) (hD : d = true ↔ D) : due D := by
    refine ⟨fun h => ?_, fun h => ?_⟩
    · rw [hc, ht, if_pos (hD.2 h)]
      rfl
    · rw [hc, ht, if_neg fun hd => h (hD.1 hd)]
  refine ⟨?_, ?_, ?_⟩
  · rintro rfl rfl rfl
    refine starts rfl (State.leaderBeaconStart_eq hp) ?_
    simp only [State.leaderDue, Bool.and_eq_true, State.mayBeacon_iff, SyncState.hasCycle_iff, decide_eq_true_eq, may,
      cycles, and_assoc]
  · rintro rfl rfl rfl
    refine starts rfl (State.backupBeaconStart_eq hp) ?_
    simp only [State.backupDue, Bool.and_eq_true, State.mayBeacon_iff, SyncState.hasCycle_iff, decide_eq_true_eq, may,
      cycles, and_assoc]
    rfl
  · rintro rfl rfl rfl
    refine starts rfl (State.freeRunBeaconStart_eq hp) ?_
    simp only [State.freeRunDue, Bool.and_eq_true, State.mayBeacon_iff, decide_eq_true_eq, may, and_assoc]
    rfl

end Sys2Proof.Machine

namespace Sys2Proof.Machine

set_option Elab.async false

/-! ### Capture and rejection (R101, section 11.3) -/

/-- A field of a word, with what stands below and above it. -/
theorem testBit_field {low v high a k i : Nat} (hl : low < 2 ^ a) (hv : v < 2 ^ k) (hi : i < k) :
    (2 ^ a * (2 ^ k * high + v) + low).testBit (a + i) = v.testBit i := by
  rw [Nat.testBit_two_pow_mul_add _ hl, if_neg (by omega), Nat.add_sub_cancel_left, Nat.testBit_two_pow_mul_add _ hv,
    if_pos hi]

theorem frameField_lt (bits : List Bool) (start n : Nat) : frameField bits start n < 2 ^ n := by
  simpa [frameField] using bitsValue_lt ((List.range n).map fun i => bits.getD (start + i) false)

/-- The bits of a field are the bits of the frame, most significant first; those not received are 0. -/
theorem frameField_testBit (bits : List Bool) (start : Nat) {n i : Nat} (hi : i < n) :
    (frameField bits start n).testBit i = bits.getD (start + (n - 1 - i)) false := by
  let field := (List.range n).map fun i => bits.getD (start + i) false
  have length : field.length = n := by simp [field]
  have spelled : msbBits n (frameField bits start n) = field := by
    refine bitsValue_injective (by simp [msbBits, length]) ?_
    rw [bitsValue_msbBits, Nat.mod_eq_of_lt (frameField_lt bits start n)]
    rfl
  have at_ : (msbBits n (frameField bits start n))[n - 1 - i]? = field[n - 1 - i]? := by rw [spelled]
  have hlt : n - 1 - i < n := by omega
  have back : n - 1 - (n - 1 - i) = i := by omega
  simpa [msbBits, field, hlt, back] using at_

/-- A field as far as received, with 0 for the rest. -/
theorem shown_getD (bits : List Bool) (start : Nat) {n j : Nat} (hj : j < n) :
    (((bits.drop start).take n ++ List.replicate n false).take n).getD j false = bits.getD (start + j) false := by
  simp only [List.getD_eq_getElem?_getD, List.getElem?_take_of_lt hj]
  by_cases hb : start + j < bits.length
  · rw [List.getElem?_append_left (by simp; omega), List.getElem?_take_of_lt hj, List.getElem?_drop]
  · rw [List.getElem?_append_right (by simp; omega), List.getElem?_replicate, List.getElem?_eq_none (by omega)]
    split <;> rfl

/-- The detail as the sum of its fields at their places. -/
theorem rejectedDetail_toNat {reason : Nat} (hr : reason ≤ 5) (bits : List Bool) :
    (rejectedDetail reason bits).toNat = reason + beaconRank bits * 256 + beaconUnit bits * 2048 +
      beaconCount bits * 65536 + bit (decide (22 ≤ bits.length)) * 2147483648 := by
  have hrank : beaconRank bits < 2 ^ 3 := frameField_lt bits 8 3
  have hunit : beaconUnit bits < 2 ^ 5 := frameField_lt bits 11 5
  have hcount : beaconCount bits < 2 ^ 6 := frameField_lt bits 16 6
  have hbit := bit_lt_two (decide (22 ≤ bits.length))
  unfold rejectedDetail pack
  rw [BitVec.toNat_ofNat, List.map_cons, List.map_cons, List.map_cons, List.map_cons, List.map_cons, List.map_nil,
    List.sum_cons, List.sum_cons, List.sum_cons, List.sum_cons, List.sum_cons, List.sum_nil]
  dsimp only [Nat.reducePow]
  omega

theorem rejectedDetail_fields {reason : Nat} (hr : reason ≤ 5) (bits : List Bool) :
    let d := rejectedDetail reason bits
    d.extractLsb' 0 3 = BitVec.ofNat 3 reason ∧ d.extractLsb' 3 5 = 0 ∧ d.extractLsb' 22 9 = 0 ∧
      (∀ i < 3, d.getLsbD (8 + i) = (beaconRank bits).testBit i) ∧
      (∀ i < 5, d.getLsbD (11 + i) = (beaconUnit bits).testBit i) ∧
      (∀ i < 6, d.getLsbD (16 + i) = (beaconCount bits).testBit i) ∧ d.getLsbD 31 = decide (22 ≤ bits.length) := by
  intro d
  have value : d.toNat = _ := rejectedDetail_toNat hr bits
  have hrank : beaconRank bits < 2 ^ 3 := frameField_lt bits 8 3
  have hunit : beaconUnit bits < 2 ^ 5 := frameField_lt bits 11 5
  have hcount : beaconCount bits < 2 ^ 6 := frameField_lt bits 16 6
  have hbit := bit_lt_two (decide (22 ≤ bits.length))
  have place {v high low : Nat} (a : Nat) {k : Nat} (h : 2 ^ a * (2 ^ k * high + v) + low = d.toNat) (hl : low < 2 ^ a)
      (hv : v < 2 ^ k) (i : Nat) (hi : i < k) : d.getLsbD (a + i) = v.testBit i := by
    rw [← BitVec.testBit_toNat, ← h, testBit_field hl hv hi]
  refine ⟨BitVec.eq_of_toNat_eq ?_, BitVec.eq_of_toNat_eq ?_, BitVec.eq_of_toNat_eq ?_,
    place 8 (high := beaconUnit bits + 32 * (beaconCount bits + 32768 * bit (decide (22 ≤ bits.length)))) (low := reason)
      ?_ ?_ hrank,
    place 11 (high := beaconCount bits + 32768 * bit (decide (22 ≤ bits.length)))
      (low := reason + beaconRank bits * 256) ?_ ?_ hunit,
    place 16 (high := 512 * bit (decide (22 ≤ bits.length)))
      (low := reason + beaconRank bits * 256 + beaconUnit bits * 2048) ?_ ?_ hcount, ?_⟩
  · rw [BitVec.extractLsb'_toNat, value, BitVec.toNat_ofNat]
    dsimp only [Nat.reducePow, Nat.shiftRight_zero]
    omega
  · rw [BitVec.extractLsb'_toNat, value, Nat.shiftRight_eq_div_pow]
    dsimp only [Nat.reducePow]
    change _ = 0
    omega
  · rw [BitVec.extractLsb'_toNat, value, Nat.shiftRight_eq_div_pow]
    dsimp only [Nat.reducePow]
    change _ = 0
    omega
  · rw [value]
    dsimp only [Nat.reducePow]
    omega
  · dsimp only [Nat.reducePow]
    omega
  · rw [value]
    dsimp only [Nat.reducePow]
    omega
  · dsimp only [Nat.reducePow] at hrank ⊢
    omega
  · rw [value]
    dsimp only [Nat.reducePow]
    omega
  · dsimp only [Nat.reducePow] at hrank hunit ⊢
    omega
  · rw [← BitVec.testBit_toNat, value, Nat.testBit_eq_decide_div_mod_eq]
    dsimp only [Nat.reducePow] at hrank hunit hcount ⊢
    have top : (reason + beaconRank bits * 256 + beaconUnit bits * 2048 + beaconCount bits * 65536 +
        bit (decide (22 ≤ bits.length)) * 2147483648) / 2147483648 % 2 = bit (decide (22 ≤ bits.length)) := by omega
    rw [top]
    cases decide (22 ≤ bits.length) <;> rfl

section
variable {s : State}

theorem State.beaconCapture_idle {p : Plan} (hp : s.sc.plan = some p) (hs : s.serving = true) (hy : s.sc.sync ≠ .off)
    (hr : s.sc.receiving = none) (ht : s.sc.sending = none) : s.beaconCapture = { s with
      sc := { s.sc with
        receiving := some s.sc.now, activity := s.sc.activity || decide (p.bm ≤ s.sc.cycleTime) } } := by
  have captured : (s.serving && s.sc.sync.watches && s.sc.pairIdle) = true := by
    rw [hs, (SyncState.watches_iff _).2 hy, TimeSync.pairIdle_iff.2 ⟨hr, ht⟩]
    rfl
  rw [State.beaconCapture, hp]
  exact if_pos captured

theorem State.beaconCapture_ignored (h : s.sc.sync = .off ∨ s.sc.receiving ≠ none ∨ s.sc.sending ≠ none) :
    s.beaconCapture = s := by
  unfold State.beaconCapture
  split
  · rfl
  · refine if_neg fun hc => ?_
    simp only [Bool.and_eq_true, SyncState.watches_iff, TimeSync.pairIdle_iff] at hc
    obtain ⟨⟨-, hy⟩, hr, ht⟩ := hc
    obtain h | h | h := h
    · exact hy h
    · exact h hr
    · exact h ht

theorem State.beaconReceived_off (bits : List Bool) (h : s.sc.sync = .off) : s.beaconReceived bits = s := by
  unfold State.beaconReceived
  split
  · refine if_neg fun hc => ?_
    exact (SyncState.watches_iff _).1 (Bool.and_eq_true_iff.1 hc).2 h
  · rfl

theorem State.beaconReceived_rejected {p : Plan} {bits : List Bool} {reason : Nat} (hp : s.sc.plan = some p)
    (hs : s.serving = true) (hy : s.sc.sync ≠ .off) (hr : s.sc.receiving ≠ none)
    (hf : beaconFault p.matrix p.bm bits = some reason) :
    s.beaconReceived bits = (s.work.rejectBeacon p reason bits).finish := by
  obtain ⟨i, hi⟩ := Option.ne_none_iff_exists'.1 hr
  unfold State.beaconReceived
  rw [hp, hi, hs, (SyncState.watches_iff _).2 hy]
  simp only [hf]
  rfl

end

/-! ### Watch expiry (R114) -/

/-- The step in hand once a watch expiry has left the sync state, before the role, the hold and the counts. -/
def Work.lostSync (w : Work) : Work :=
  { s := { w.s with sc := { w.s.sc with sync := .unsynced } },
    others := w.others ++ syncEvents w.s w.s.sc.cycleCount .unsynced 5, health := w.health }

/-- The counts of an expired cycle, and the present matrix record (R113, R133). -/
def State.expiredCounts (s : State) : State :=
  { s with
    cycle := none,
    sc := { s.sc with
      cycleTime := 0, activity := false, firstFreeRun := true, rejectedInRun := 0, opening := none },
    hm := s.hm.flagPartial }

theorem Work.expire_eq (w : Work) : w.expire =
    (((w.lostSync.demote .watch).on fun s => if s.sc.hold then s.endResign .noTakeover 0 else s).on
      State.expiredCounts).evaluate := by
  unfold Work.expire
  rw [Work.setSync_spec]
  rfl

/-- A step that ends with a watch expiry: what it changes and what it posts. -/
theorem Work.expire_finish {w : Work} (hu : w.s.sc.sync ≠ .unsynced) (hr : w.s.sc.receiving = none)
    (hd : w.s.dev ≠ .fatal) (hh : w.health = []) :
    let t := w.expire.finish
    WatchExpires w.s t ∧
      Posts w.s t (w.others ++ syncEvents w.s w.s.sc.cycleCount .unsynced 5 ++ stepDown w.s w.s.sc.cycleCount 4)
        (healthChange w.s t) := by
  intro t
  refine ⟨w.expire_WatchExpires hu hr, ?_⟩
  obtain ⟨⟨ps, os, n, hstate⟩, -, hothers, hhealth⟩ := w.lostSync.demote_endResign_spec .watch .noTakeover 0
  have ht : t = _ := congrArg Work.finish w.expire_eq
  obtain ⟨-, posts, -⟩ := Work.evaluate_finish (s := w.s) (w := ((w.lostSync.demote .watch).on fun s =>
      if s.sc.hold then s.endResign .noTakeover 0 else s).on State.expiredCounts)
    (by rw [Work.on, hstate]; exact hd) (hhealth.trans hh) (by rw [Work.on, hstate]; rfl)
    (by rw [Work.on, hstate]; rfl) (by rw [Work.on, hstate]; rfl)
  rw [← ht, show Work.others (Work.on (Work.on _ _) State.expiredCounts) = _ from hothers] at posts
  exact posts

/-- Settles O42: capture by the state of the pair, rejection with or without a watch expiry that waited for it, and the
detail by its fields. -/
theorem capturedFramesAreRejectedWithoutTrace : Obligations.CapturedFramesAreRejectedWithoutTrace := by
  unfold Obligations.CapturedFramesAreRejectedWithoutTrace
  refine ⟨fun s p hp hs hy => ⟨fun hr ht => congrArg Host.Outcome.next (State.beaconCapture_idle hp hs hy hr ht),
      fun h => congrArg Host.Outcome.next (State.beaconCapture_ignored (.inr h)), fun bits reason hr hf => ?_⟩,
    fun s hy => ⟨congrArg Host.Outcome.next (State.beaconCapture_ignored (.inl hy)),
      fun bits => congrArg Host.Outcome.next (State.beaconReceived_off bits hy)⟩,
    fun reason bits _ hr => ?_⟩
  · intro rejected
    have received : exec (.beaconReceived bits) s = .next (s.work.rejectBeacon p reason bits).finish :=
      congrArg Host.Outcome.next (State.beaconReceived_rejected hp hs hy hr hf)
    let dropped : Work := (s.work.on fun s => { s with sc := { s.sc with
        receiving := none,
        rejectedInRun := if s.sc.sync = .unsynced ∧ s.sc.firstFreeRun = true then s.sc.rejectedInRun + 1
          else s.sc.rejectedInRun } }).post rejected
    have rejects : s.work.rejectBeacon p reason bits =
        if s.sc.sync.hasCycle = true ∧ p.wm ≤ s.sc.cycleTime then dropped.expire else dropped := rfl
    refine ⟨fun h => ?_, fun hu hwm => ?_⟩
    · have goes : ¬ (s.sc.sync.hasCycle = true ∧ p.wm ≤ s.sc.cycleTime) := by
        rintro ⟨hc, hwm⟩
        obtain h | h := h
        · rw [h] at hc
          nomatch hc
        · exact absurd hwm (Nat.not_le.2 h)
      rw [received, rejects, if_neg goes]
      rfl
    · have hc : s.sc.sync.hasCycle = true := by
        rw [SyncState.hasCycle_iff]
        cases hy' : s.sc.sync <;> simp_all
      rw [received, rejects, if_pos ⟨hc, hwm⟩]
      exact ⟨_, rfl, Work.expire_finish (w := dropped) hu rfl (State.serving_not_fatal hs) rfl⟩
  · intro d shown
    obtain ⟨h1, h2, h3, hrank, hunit, hcount, hwhole⟩ := rejectedDetail_fields hr bits
    refine ⟨h1, h2, h3, fun i hi => ?_, fun i hi => ?_, fun i hi => ?_, ?_⟩
    · rw [hrank i hi, beaconRank, frameField_testBit bits 8 hi, shown_getD bits 8 (by omega)]
    · rw [hunit i hi, beaconUnit, frameField_testBit bits 11 hi, shown_getD bits 11 (by omega)]
    · rw [hcount i hi, beaconCount, frameField_testBit bits 16 hi, shown_getD bits 16 (by omega)]
    · rw [hwhole, decide_eq_true_eq]

/-! ### Cycles that end without an edge (R99, R113, R114) -/

theorem State.watchDue_iff {s : State} {p : Plan} : s.watchDue p = true ↔
    s.dev = .running ∧ (s.sc.sync = .acquiring ∨ s.sc.sync = .locked) ∧ p.wm ≤ s.sc.cycleTime ∧
      s.sc.receiving = none ∧ s.sc.sending = none := by
  simp [State.watchDue, TimeSync.pairIdle_iff, SyncState.hasCycle_iff, and_assoc]

theorem State.freeRunEnds_iff {s : State} {p : Plan} : s.freeRunEnds p = true ↔
    s.dev = .running ∧ s.sc.sync = .unsynced ∧ p.wm ≤ s.sc.cycleTime := by
  simp [State.freeRunEnds, and_assoc]

theorem State.haltedEnds_iff {s : State} {p : Plan} : s.haltedEnds p = true ↔
    s.dev = .halted ∧ p.wm ≤ s.sc.cycleTime := by simp [State.haltedEnds]

/-- The machine as a free-run cycle begins anew (R113). -/
def State.freeRunAgain (s : State) : State :=
  { s with sc := { s.sc with cycleTime := 0, activity := false, firstFreeRun := false, rejectedInRun := 0 } }

theorem State.freeRunCycle_due {s : State} {p : Plan} (hp : s.sc.plan = some p) (h : s.freeRunEnds p = true) :
    s.freeRunCycle = if s.sc.firstFreeRun then
      s.freeRunAgain.postAll [s.event .noBeacon noSubject (pack [(noBeaconCount s.sc.rejectedInRun, 0)])]
    else s.freeRunAgain := by
  rw [State.freeRunCycle, hp]
  exact if_pos h

/-- An end of a cycle that is not due changes nothing. -/
theorem State.cycleEnds_early {s : State} :
    ((∀ p, s.sc.plan = some p → s.watchDue p = false) → s.watchExpiry = s) ∧
      ((∀ p, s.sc.plan = some p → s.freeRunEnds p = false) → s.freeRunCycle = s) ∧
      ((∀ p, s.sc.plan = some p → s.haltedEnds p = false) → s.haltedCycleRestart = s) := by
  unfold State.watchExpiry State.freeRunCycle State.haltedCycleRestart
  cases s.sc.plan with
  | none => exact ⟨fun _ => rfl, fun _ => rfl, fun _ => rfl⟩
  | some p =>
    exact ⟨fun h => if_neg (Bool.eq_false_iff.1 (h p rfl)), fun h => if_neg (Bool.eq_false_iff.1 (h p rfl)),
      fun h => if_neg (Bool.eq_false_iff.1 (h p rfl))⟩

/-- Settles O46: the three ends of a cycle, each where it is due, and nothing where it is not. -/
theorem cyclesWithoutAnEdgeEndAtWm : Obligations.CyclesWithoutAnEdgeEndAtWm := by
  unfold Obligations.CyclesWithoutAnEdgeEndAtWm
  refine ⟨fun s p hp hwm => ⟨fun hd hy hr ht => ?_, fun hd hy => ⟨fun hf => ?_, fun hf hn => ?_⟩, fun hd => ?_⟩,
    fun s => ⟨fun h => ?_, fun h => ?_, fun h => ?_⟩⟩
  · have due : s.watchDue p = true := State.watchDue_iff.2 ⟨hd, hy, hwm, hr, ht⟩
    have expires : s.watchExpiry = s.work.expire.finish := by
      rw [State.watchExpiry, hp]
      exact if_pos due
    have hu : s.sc.sync ≠ .unsynced := by
      obtain h | h := hy <;> rw [h] <;> nofun
    exact ⟨_, congrArg Host.Outcome.next expires, Work.expire_finish (w := s.work) hu hr (by rw [State.work, hd]; nofun) rfl⟩
  · have due := State.freeRunCycle_due hp (State.freeRunEnds_iff.2 ⟨hd, hy, hwm⟩)
    exact congrArg Host.Outcome.next (due.trans (if_neg (by rw [hf]; nofun)))
  · have due := State.freeRunCycle_due hp (State.freeRunEnds_iff.2 ⟨hd, hy, hwm⟩)
    rw [if_pos hf, pack_at_zero, noBeaconCount, if_pos hn] at due
    exact congrArg Host.Outcome.next due
  · have due : s.haltedCycleRestart = { s with sc := { s.sc with cycleTime := 0 } } := by
      rw [State.haltedCycleRestart, hp]
      exact if_pos (State.haltedEnds_iff.2 ⟨hd, hwm⟩)
    exact congrArg Host.Outcome.next due
  · refine congrArg Host.Outcome.next (State.cycleEnds_early.1 fun p hp => Bool.eq_false_iff.2 fun hw => ?_)
    obtain ⟨hd, hy, hwm, hr, ht⟩ := State.watchDue_iff.1 hw
    obtain h | h | h | h | h | h := h
    · exact absurd hwm (Nat.not_le.2 (h p hp))
    · exact h hd
    · rw [h] at hy
      exact hy.elim nofun nofun
    · rw [h] at hy
      exact hy.elim nofun nofun
    · exact h hr
    · exact h ht
  · refine congrArg Host.Outcome.next (State.cycleEnds_early.2.1 fun p hp => Bool.eq_false_iff.2 fun hw => ?_)
    obtain ⟨hd, hy, hwm⟩ := State.freeRunEnds_iff.1 hw
    obtain h | h | h := h
    · exact absurd hwm (Nat.not_le.2 (h p hp))
    · exact h hd
    · exact h hy
  · refine congrArg Host.Outcome.next (State.cycleEnds_early.2.2 fun p hp => Bool.eq_false_iff.2 fun hw => ?_)
    obtain ⟨hd, hwm⟩ := State.haltedEnds_iff.1 hw
    obtain h | h := h
    · exact absurd hwm (Nat.not_le.2 (h p hp))
    · exact h hd

end Sys2Proof.Machine

/-! PROOFS. The Health Monitor's scores, level and reports, and the device's clock. -/

namespace Sys2Proof.Machine

set_option Elab.async false

/-! ### Events of one block (R157) -/

theorem State.postAll_nil (s : State) : s.postAll [] = s := by
  unfold State.postAll
  split
  · rfl
  · have idle : (if s.ew.writing then [] else s.ew.begun) = [] := by
      cases hw : s.ew.writing with
      | true => rfl
      | false => exact EventWriter.begun_nil (EventWriter.writing_eq_false.1 hw).1
    exact (congrArg (fun os => ({ s with outputs := os ++ s.outputs } : State)) idle)

/-- Where no other block posts, the Health Monitor's events reach the Event Writer in their order. -/
theorem Work.finish_health {w : Work} (h : w.others = []) : w.finish = w.s.postAll w.health := by
  unfold Work.finish
  rw [h]
  cases w.health <;> rfl

/-! ### The miss score (R124 to R126) -/

theorem Runtime.scored_disabled {r : Runtime} (o : Verdict) (h : r.disabled = true) : r.scored o = r := if_pos h

theorem Runtime.scored_enabled {r : Runtime} (o : Verdict) (h : r.disabled = false) :
    r.scored o = { r with score := scoreAfter r.score o, disabled := decide (scoreAfter r.score o = 15) } :=
  if_neg (by rw [h]; exact Bool.false_ne_true)

theorem min_two_more {n : Nat} (h : n ≤ 14) : min 15 (n + 2) = if n = 14 then 15 else n + 2 := by
  split <;> omega

section
variable {r : CommandRecord} {ref : CmdRef} {s : State}

theorem rearmOwner_reserved (hz : reservedZero r [(8, 8)] = false) : rearmOwner r ref s = s.complete ref .badField 0 :=
  if_pos hz

variable (hz : reservedZero r [(8, 8)] = true)
include hz

theorem rearmOwner_noEntry (ha : s.findActive (recordByte r 8) = none) : rearmOwner r ref s = s.complete ref .noEntry 0 := by
  simp only [rearmOwner, hz, Bool.true_eq_false, if_false, ha]

theorem rearmOwner_found {a : ActiveEntry} (ha : s.findActive (recordByte r 8) = some a) : rearmOwner r ref s =
    ((s.updateRun (recordByte r 8) fun x => { x with score := 0, disabled := false }).complete ref .ok
      (BitVec.ofNat 32 (a.run.score + if a.run.disabled then 256 else 0))).work.evaluate.finish := by
  have result : pack [(a.run.score, 0), (bit a.run.disabled, 8)] =
      BitVec.ofNat 32 (a.run.score + if a.run.disabled then 256 else 0) := by
    cases a.run.disabled <;> simp [pack, bit]
  simp only [rearmOwner, hz, Bool.true_eq_false, if_false, ha, result]

end

/-- Settles O47: the score by the outcome, and REARM by its checks and by whether the level changes. -/
theorem outcomesScoreAndRearmClears : Obligations.OutcomesScoreAndRearmClears := by
  unfold Obligations.OutcomesScoreAndRearmClears
  refine ⟨fun r o => ⟨Runtime.scored_disabled o, fun hd h14 => ?_⟩, fun s h hh =>
    ⟨fun hz => .of_owner rfl hh (rearmOwner_reserved hz), fun hz =>
      ⟨fun ha => .of_owner rfl hh (rearmOwner_noEntry (s := s.taken) hz ha), fun a ha => ?_⟩⟩⟩
  · rw [Runtime.scored_enabled o hd]
    refine ⟨rfl, rfl, rfl, decide_eq_true_iff, ?_, ?_, ?_, ?_⟩
    · rintro rfl
      rfl
    · rintro rfl
      rfl
    · have one : min 15 (r.score + 1) = r.score + 1 := by omega
      rintro (rfl | rfl | rfl) <;> exact one
    · rintro (rfl | rfl | rfl | rfl | rfl | rfl | rfl) <;> exact min_two_more h14
  · intro u v
    have rearmed : exec .entryRearm s = .next u.work.evaluate.finish :=
      exec_held rfl hh (rearmOwner_found (s := s.taken) hz ha)
    have kept := (s.taken.updateRun (recordByte h.record 8) fun x => { x with score := 0, disabled := false }).complete_keeps
      h.ref .ok (BitVec.ofNat 32 (a.run.score + if a.run.disabled then 256 else 0))
    obtain ⟨-, -, -, -, -, -, -, -, -, -, -, -, -, -, -, -, -, -, -, -, -, hsc, hhm, -⟩ := kept
    have monitor : u.hm = s.hm := hhm
    have clock : u.sc = s.sc := hsc
    have ends : u.work.evaluate.finish = v.postAll (healthChange u v) := by
      rw [Work.finish_health (by rw [Work.evaluate_spec]; rfl), Work.evaluate_spec]
      rfl
    refine ⟨fun hl => ?_, fun hl => ?_⟩
    · have same : healthChange u v = [] := if_pos (by rw [monitor]; exact hl)
      rw [rearmed, ends, same, State.postAll_nil]
    · have changed : healthChange u v = [v.healthEvent u.hm.degraded] := if_neg (by rw [monitor]; exact hl)
      rw [rearmed, ends, changed, monitor]
      have event : v.healthEvent s.hm.degraded = _ := congrArg (fun t : TimeSync =>
        ({ kind := .health, subject := noSubject, cycle := t.cycleCount, time := t.localTime,
           detail := pack [(bit u.healthNow.degraded, 0), (bit s.hm.degraded, 1), (bit u.healthNow.weakEntry, 4),
             (bit u.healthNow.disabledEntry, 5), (bit u.healthNow.trimSuspended, 6), (bit u.healthNow.laneDown, 7),
             (u.weakCount, 8), (u.disabledCount, 17)] } : Event)) clock
      rw [event]
      rfl

/-! ### The level and the reports (R128, R129, R134) -/

theorem State.laneIsDown_iff {s : State} : s.laneIsDown = true ↔ s.sc.sync = .locked ∧
    ∃ a ∈ s.active, a.entry.kind ≠ .marker ∧ s.lanes[a.entry.lane].state ≠ .ready := by
  simp only [State.laneIsDown, Bool.and_eq_true, decide_eq_true_eq, List.any_eq_true, Kind.isLane_iff]

/-- Settles O48: the level by its four conditions, the report by its fields, and MATRIX_REPORT by the closed records. -/
theorem healthLevelAndMatrixReports : Obligations.HealthLevelAndMatrixReports := by
  unfold Obligations.HealthLevelAndMatrixReports
  refine ⟨fun s => ⟨decide_eq_true_iff, decide_eq_true_iff, decide_eq_true_iff, State.laneIsDown_iff, ?_, fun hl => ?_,
      fun hl => ?_⟩,
    fun m => rfl, fun s => ⟨fun hs => ?_, fun hs => ?_, fun hrec => ?_⟩⟩
  · simp only [State.healthNow, Bool.or_eq_true, or_assoc]
  · rw [Work.evaluate_spec]
    exact if_pos hl
  · rw [Work.evaluate_spec]
    exact if_neg hl
  · exact congrArg Host.Outcome.next (if_neg (by rw [hs]; exact Bool.false_ne_true))
  · let kept := { s with hm := { s.hm with closed := s.hm.closed.filter fun m => decide (m.inFlight ≠ 0) } }
    let events := (s.hm.closed.filter fun m => decide (m.inFlight = 0)).map MatrixRecord.report
    have reports : exec .matrixReport s = .next (kept.postAll events) :=
      congrArg Host.Outcome.next ((if_pos hs).trans (Work.finish_health rfl))
    obtain ⟨w, os, shape⟩ := kept.postAll_shape events
    refine ⟨_, reports, ?_, kept.postAll_ew events (State.serving_not_fatal hs)⟩
    rw [shape]
  · have ready : (s.hm.closed.filter fun m => decide (m.inFlight = 0)) = [] :=
      List.filter_eq_nil_iff.2 fun m hm h0 => hrec m hm (of_decide_eq_true h0)
    have all : (s.hm.closed.filter fun m => decide (m.inFlight ≠ 0)) = s.hm.closed :=
      List.filter_eq_self.2 fun m hm => decide_eq_true (hrec m hm)
    refine congrArg Host.Outcome.next (?_ : (if s.serving then s.work.postReady.finish else s) = s)
    have unchanged : s.work.postReady.finish = s := by
      rw [Work.finish_health rfl]
      simp only [Work.postReady, State.work, ready, all, List.map_nil, List.append_nil, State.postAll_nil]
    rw [unchanged, ite_self]

end Sys2Proof.Machine

namespace Sys2Proof.Machine

set_option Elab.async false

/-! ### One reference clock (R66, R71, R72, R98, R99) -/

theorem State.tick_due {s : State} (h : s.eventDue = true) : s.tick = s := by
  refine if_neg fun hc => ?_
  rw [h, Bool.not_true, Bool.and_false] at hc
  nomatch hc

theorem State.tick_passes {s : State} (hs : s.serving = true) (h : s.eventDue = false) : s.tick = { s with
    lanes := s.lanes.map Lane.tick,
    sc := { s.tickTime with
      sending := s.tickTime.sending.map fun (b : OwnBeacon) => { b with clocks := b.clocks + 1 } } } :=
  if_pos (by rw [hs, h]; rfl)

/-- What one clock leaves of the controller (R98, R99). -/
theorem State.tickTime_keeps (s : State) : s.tickTime.cycleCount = s.sc.cycleCount ∧ s.tickTime.trim = s.sc.trim ∧
    s.tickTime.plan = s.sc.plan ∧ s.tickTime.sync = s.sc.sync ∧ s.tickTime.role = s.sc.role ∧
    s.tickTime.receiving = s.sc.receiving ∧ s.tickTime.sending = s.sc.sending := by
  unfold State.tickTime
  split
  · split <;> exact ⟨rfl, rfl, rfl, rfl, rfl, rfl, rfl⟩
  · exact ⟨rfl, rfl, rfl, rfl, rfl, rfl, rfl⟩

theorem State.tickTime_stopped {s : State} (h : s.timeRuns = false) : s.tickTime = s.sc := by
  unfold State.tickTime
  rw [h]

theorem State.tickTime_runs {s : State} {p : Plan} (h : s.timeRuns = true) (hp : s.sc.plan = some p) :
    s.tickTime = if s.sc.stuLeft ≤ 1 then s.sc.endStu p else { s.sc with stuLeft := s.sc.stuLeft - 1 } := by
  unfold State.tickTime
  rw [h, hp]

/-- The clocks of an STU and what is carried on are the carry so far and one effective length (R98). -/
theorem TimeSync.nextStu_total (t : TimeSync) (stu : Nat) :
    (t.nextStu stu).stuLength * 1000000 + (t.nextStu stu).stuCarry = t.stuCarry + effectiveMicro stu t.trim :=
  Nat.div_add_mod' _ _

theorem effectiveMicro_eq (stu : Nat) {trim : Int} (h : -1000000 ≤ trim) :
    (effectiveMicro stu trim : Int) = stu * 1000000 + stu * trim := by
  rw [effectiveMicro, Int.toNat_of_nonneg (mul_nonneg (Int.natCast_nonneg stu) (by omega)), mul_add]

/-- One more STU counted, with the clocks it took. -/
def countStu (stu : Nat) (a : TimeSync × Nat) : TimeSync × Nat :=
  (a.1.nextStu stu, a.2 + (a.1.nextStu stu).stuLength)

/-- A run of STU counted under one trim takes the clocks of their lengths, but for what is carried (R98). -/
theorem countStu_run {t : TimeSync} (h : t.stuCarry < 1000000) (stu n : Nat) :
    let run := (List.range n).foldl (fun a _ => countStu stu a) (t, 0)
    run.1.trim = t.trim ∧ run.1.stuCarry < 1000000 ∧
      run.2 * 1000000 + run.1.stuCarry = t.stuCarry + n * effectiveMicro stu t.trim := by
  induction n with
  | zero => exact ⟨rfl, h, by simp⟩
  | succ n ih =>
    intro run
    let before := (List.range n).foldl (fun a _ => countStu stu a) (t, 0)
    obtain ⟨htrim, hcarry, htotal⟩ := ih
    have last : run = countStu stu before := by
      simp only [run, List.range_succ, List.foldl_append, List.foldl_cons, List.foldl_nil, before]
    have total := before.1.nextStu_total stu
    rw [show before.1.trim = t.trim from htrim] at total
    rw [last]
    refine ⟨htrim, TimeSync.nextStu_carry _ _, ?_⟩
    have sum : before.2 * 1000000 + before.1.stuCarry = t.stuCarry + n * effectiveMicro stu t.trim := htotal
    have more : (n + 1) * effectiveMicro stu t.trim = n * effectiveMicro stu t.trim + effectiveMicro stu t.trim :=
      Nat.succ_mul _ _
    rw [more]
    dsimp only [countStu]
    calc (before.2 + (before.1.nextStu stu).stuLength) * 1000000 + (before.1.nextStu stu).stuCarry
        = before.2 * 1000000 + ((before.1.nextStu stu).stuLength * 1000000 + (before.1.nextStu stu).stuCarry) := by
          rw [Nat.add_mul, Nat.add_assoc]
      _ = t.stuCarry + (n * effectiveMicro stu t.trim + effectiveMicro stu t.trim) := by
          rw [total, ← Nat.add_assoc, sum, Nat.add_assoc]

/-- Settles O2: the clock block by block, and a run of STU by what it carries on. -/
theorem idleStepLetsAClockPass : Obligations.IdleStepLetsAClockPass := by
  unfold Obligations.IdleStepLetsAClockPass
  refine ⟨fun s hpend hs => ?_, fun stu trim => effectiveMicro_eq stu, fun t stu n hc => ?_⟩
  · have steps : step s = .next s.tick := by
      unfold step
      rw [hpend]
    refine ⟨fun h => by rw [steps, State.tick_due h], fun h => ?_⟩
    obtain ⟨hcount, htrim, hplan, hsync, hrole, hrec, hsend⟩ := s.tickTime_keeps
    rw [steps, State.tick_passes hs h]
    refine ⟨_, rfl, rfl, rfl, rfl, rfl, rfl, rfl, hcount, htrim, hplan, hsync, hrole, hrec, fun l => ?_, ?_, fun hr => ?_,
      fun hr hp hl => ?_, fun p hr hp hl => ?_⟩
    · simp only [Fin.getElem_fin, Vector.getElem_map, Lane.tick]
      congr 2
      funext x
      obtain ⟨_, _, _, deadline, _⟩ := x
      cases deadline <;> rfl
    · rw [hsend]
    · rw [State.tickTime_stopped hr]
      exact ⟨rfl, rfl, rfl⟩
    · obtain ⟨p, hp⟩ := Option.ne_none_iff_exists'.1 hp
      rw [State.tickTime_runs hr hp, if_neg (by omega)]
      exact ⟨by dsimp only; omega, rfl, rfl, rfl, rfl⟩
    · rw [State.tickTime_runs hr hp, if_pos hl]
      refine ⟨rfl, min_succ_eq_ite _, rfl, TimeSync.nextStu_carry _ _, TimeSync.nextStu_total _ _, ?_⟩
      simp only [TimeSync.endStu, Bool.or_eq_true, Bool.and_eq_true, decide_eq_true_eq, Bool.not_eq_true',
        ← Bool.not_eq_true, TimeSync.pairIdle_iff, not_and_or, ne_eq]
  · intro run
    obtain ⟨-, hcarry, htotal⟩ := countStu_run hc stu n
    have total : run.2 * 1000000 + run.1.stuCarry = t.stuCarry + n * effectiveMicro stu t.trim := htotal
    have carry : run.1.stuCarry < 1000000 := hcarry
    omega

/-! ### A lane and its changes of state (R58, R82, R129) -/

theorem State.setLane_setLane (s : State) (l : LaneId) (x y : Lane) : (s.setLane l x).setLane l y = s.setLane l y := by
  simp [State.setLane]

theorem State.setLane_at (s : State) (l m : LaneId) (x : Lane) :
    (s.setLane l x).lanes[m] = if m = l then x else s.lanes[m] := by
  by_cases h : m = l
  · subst h
    simp
  · rw [State.setLane_other _ _ _ _ h, if_neg h]

theorem State.setLane_here (s : State) (l : LaneId) (x : Lane) : (s.setLane l x).lanes[l] = x := s.setLane_same l x

theorem recordWrite_congr {s u t : State} (h : u.ew = s.ew) : recordWrite u t = recordWrite s t := by
  rw [recordWrite_eq, recordWrite_eq, h]

/-- A step that ends with a change of lane state: what it posts, the level it leaves, and the rest of the machine. -/
theorem Work.laneChange_finish {s : State} {w : Work} (l : LaneId) (x : Lane) (cause : LaneCause)
    (hd : w.s.dev ≠ .fatal) (hh : w.health = []) (he : w.s.ew = s.ew) (hsc : w.s.sc = s.sc) (hm : w.s.hm = s.hm)
    (hl : w.s.lanes[l].state = s.lanes[l].state) :
    let t := (w.laneChange l x cause).finish
    Posts s t (w.others ++ [laneStateEvent s l x.state cause.code]) (healthChange s t) ∧ Evaluated s t ∧
      t.outputs = recordWrite s t ++ w.s.outputs ∧
      ∃ m e os n, t = { w.s.setLane l x with hm := m, ew := e, outputs := os, free := n } := by
  let changed := (w.on fun s => s.setLane l x).post (w.s.event .laneState (BitVec.ofNat 16 l.val)
    (pack [(x.state.code, 0), (w.s.lanes[l].state.code, 8), (cause.code, 16)]))
  have event : w.s.event .laneState (BitVec.ofNat 16 l.val)
      (pack [(x.state.code, 0), (w.s.lanes[l].state.code, 8), (cause.code, 16)]) =
        laneStateEvent s l x.state cause.code := by
    unfold State.event laneStateEvent
    rw [hsc, hl]
  obtain ⟨-, posts, e, os, n, shape⟩ := Work.evaluate_finish (s := s) (w := changed) hd hh he
    (congrArg TimeSync.localTime hsc) (congrArg HealthMonitor.degraded hm)
  have others : changed.others = w.others ++ [laneStateEvent s l x.state cause.code] := by rw [← event]; rfl
  rw [others] at posts
  refine ⟨posts, Work.laneChange_Evaluated s w l x cause hm, ?_, _, e, os, n, shape⟩
  have state : changed.evaluate.s = { changed.s with hm := changed.s.healthNow } := by rw [Work.evaluate_spec]
  have out := changed.evaluate.finish_outputs (by rw [state]; exact hd)
  rw [recordWrite_congr (s := s) (by rw [state]; exact he), state] at out
  exact out

end Sys2Proof.Machine

/-! PROOFS. The lanes: what begins a training run or an exchange, and what the receiver makes of a frame. -/

namespace Sys2Proof.Machine

set_option Elab.async false

/-! ### Requests (R63, R65) -/

/-- A request sent on a lane that has just been changed. -/
theorem State.setLane_sendRequest (s : State) (l : LaneId) (x : Lane) (source : ExchangeSource) (kind : Kind)
    (words : List StationWord) (inCount : Nat) (deadline : Deadline) :
    (s.setLane l x).sendRequest l source kind words inCount deadline =
      (s.setLane l { x with
        sequence := x.sequence + 1,
        inFlight := some { source := source, sequence := x.sequence, inCount := inCount, deadline := deadline,
                           settling := false } }).emit
        (.laneFrame l x.rate (requestCells kind x.sequence words inCount)) := by
  unfold State.sendRequest
  rw [State.setLane_setLane, State.setLane_here]

/-! ### Training runs (R71, R72, R74) -/

theorem State.probeDue_iff {s : State} {l : LaneId} : s.probeDue l = true ↔
    s.serving = true ∧ s.lanes[l].state = .training ∧ s.lanes[l].inFlight = none ∧ s.lanes[l].probeWait = 0 ∧
      s.lanes[l].probesSent < 64 := by
  simp [State.probeDue, and_assoc]

theorem State.retrainDue_iff {s : State} {l : LaneId} : s.retrainDue l = true ↔
    s.serving = true ∧ s.lanes[l].state = .faulted ∧ s.lanes[l].retrainTimer = some 0 := by
  simp [State.retrainDue, and_assoc]

/-- Settles O28: the two events by whether they are due. -/
theorem probesAndRetrainingAtTheirTime : Obligations.ProbesAndRetrainingAtTheirTime := by
  unfold Obligations.ProbesAndRetrainingAtTheirTime
  refine ⟨fun s l hs => ⟨fun h1 h2 h3 h4 => ?_, fun h => ?_⟩, fun s l hs => ⟨fun h1 h2 => ?_, fun h => ?_⟩⟩
  · have sent : s.probeInterval l = _ := if_pos (State.probeDue_iff.2 ⟨hs, h1, h2, h3, h4⟩)
    rw [State.setLane_sendRequest] at sent
    exact congrArg Host.Outcome.next sent
  · refine congrArg Host.Outcome.next (if_neg fun hd => ?_)
    obtain ⟨-, h1, h2, h3, h4⟩ := State.probeDue_iff.1 hd
    obtain h | h | h | h := h
    · exact h h1
    · exact h h2
    · exact h h3
    · omega
  · intro abandoned
    have expires : s.retrainTimerExpiry l = _ := if_pos (State.retrainDue_iff.2 ⟨hs, h1, h2⟩)
    obtain ⟨posts, level, out, m, e, os, n, shape⟩ := Work.laneChange_finish (s := s) (w := s.work) l
      s.lanes[l].beginRun .retrain (State.serving_not_fatal hs) rfl rfl rfl rfl rfl
    refine ⟨_, congrArg Host.Outcome.next expires, ?_, posts, level, out, fun k hk => ?_, ?_, ?_, ?_, ?_⟩
    · rw [shape]
      exact State.setLane_here s l _
    · rw [shape]
      exact State.setLane_other s l _ k hk
    all_goals rw [shape]; rfl
  · refine congrArg Host.Outcome.next (if_neg fun hd => ?_)
    obtain ⟨-, h1, h2⟩ := State.retrainDue_iff.1 hd
    exact h.elim (fun h => h h1) fun h => h h2

/-- The machine once a waiting TRAIN LANE has been superseded (R74). -/
def State.superseding (s : State) (l : LaneId) : State :=
  s.lanes[l].waitingTrain.elim s fun old => s.complete old .superseded 0

theorem State.superseding_shape (s : State) (l : LaneId) :
    ∃ ps os, s.superseding l = { s with pairs := ps, outputs := os } := by
  unfold State.superseding
  cases s.lanes[l].waitingTrain with
  | none => exact ⟨_, _, rfl⟩
  | some old => exact State.complete_shape s old .superseded 0

theorem State.superseding_hands (s : State) (l : LaneId) :
    Hands s (s.superseding l) (s.lanes[l].waitingTrain.toList.map fun old => ⟨old, .superseded, 0⟩) := by
  unfold State.superseding
  cases s.lanes[l].waitingTrain with
  | none => exact .refl rfl
  | some old => exact State.complete_Hands s old .superseded 0

/-- Completing a command and changing a lane do not meet. -/
theorem State.complete_setLane (s : State) (l : LaneId) (x : Lane) (c : CmdRef) (st : Status) (r : Reg) :
    (s.setLane l x).complete c st r = (s.complete c st r).setLane l x := by
  unfold State.complete
  rw [State.setLane_pairs]
  split <;> rfl

/-- Completing a command and taking the held record do not meet. -/
theorem State.complete_taken (s : State) (c : CmdRef) (st : Status) (r : Reg) :
    s.taken.complete c st r = (s.complete c st r).taken := by
  unfold State.complete
  rw [show s.taken.pairs = s.pairs from rfl]
  split <;> rfl

theorem State.superseding_taken (s : State) (l : LaneId) : s.taken.superseding l = (s.superseding l).taken := by
  unfold State.superseding
  rw [show s.taken.lanes = s.lanes from rfl]
  cases s.lanes[l].waitingTrain with
  | none => rfl
  | some old => exact State.complete_taken s old .superseded 0

/-- TRAIN LANE waits on its lane, an earlier one completing SUPERSEDED (R74). -/
theorem State.waitForTraining_eq (s : State) (l : LaneId) (ref : CmdRef) :
    s.waitForTraining l ref = (s.superseding l).setLane l { s.lanes[l] with waitingTrain := some ref } := by
  unfold State.waitForTraining State.completeTrain State.superseding
  cases ht : s.lanes[l].waitingTrain with
  | none => rfl
  | some old =>
    dsimp only [Option.elim]
    rw [State.complete_setLane, State.setLane_setLane, State.setLane_here]

section
variable {r : CommandRecord} {ref : CmdRef} {s : State} {l : LaneId}

theorem trainOwner_badField (h : laneOfByte (recordByte r 8) = none ∨ reservedZero r [(8, 8)] = false) :
    trainOwner r ref s = s.complete ref .badField 0 := by
  unfold trainOwner
  split
  · rfl
  · rename_i l hl
    exact if_pos (h.resolve_left (by rw [hl]; nofun))

variable (hl : laneOfByte (recordByte r 8) = some l) (hz : reservedZero r [(8, 8)] = true)
include hl hz

theorem trainOwner_off (h : s.lanes[l].state = .off) : trainOwner r ref s = s.complete ref .wrongState 0 := by
  simp only [trainOwner, hl, hz, Bool.true_eq_false, if_false, h]

theorem trainOwner_training (h : s.lanes[l].state = .training) : trainOwner r ref s =
    ((s.waitForTraining l ref).work.on fun t => t.setLane l t.lanes[l].beginRun).finish := by
  simp only [trainOwner, hl, hz, Bool.true_eq_false, if_false, h]

theorem trainOwner_changes (h0 : s.lanes[l].state ≠ .off) (h1 : s.lanes[l].state ≠ .training) : trainOwner r ref s =
    ((s.waitForTraining l ref).work.laneChange l (s.waitForTraining l ref).lanes[l].beginRun .trainCommand).finish := by
  simp only [trainOwner, hl, hz, Bool.true_eq_false, if_false]
  cases h : s.lanes[l].state with
  | off => exact absurd h h0
  | training => exact absurd h h1
  | ready => rfl
  | faulted => rfl

end

/-- Settles O26: the refusals, then the run as the lane's state has it post its change or not. -/
theorem trainLaneBeginsARun : Obligations.TrainLaneBeginsARun := by
  unfold Obligations.TrainLaneBeginsARun
  refine fun s h hh => ⟨fun hbad => .of_owner rfl hh (trainOwner_badField (hbad.imp_left laneOfByte_none)),
    fun l hb hz => ⟨fun h0 => .of_owner rfl hh (trainOwner_off (laneOfByte_some hb) hz h0), fun h0 => ?_⟩⟩
  intro abandoned
  obtain ⟨ps, os, hsup⟩ := s.superseding_shape l
  have hands := s.superseding_hands l
  have waits : s.taken.waitForTraining l h.ref =
      (s.superseding l).taken.setLane l { s.lanes[l] with waitingTrain := some h.ref } := by
    rw [State.waitForTraining_eq, State.superseding_taken]
    rfl
  have lane : (s.taken.waitForTraining l h.ref).lanes[l] = { s.lanes[l] with waitingTrain := some h.ref } := by
    rw [waits, State.setLane_here]
  let run : Lane := { s.lanes[l] with
    state := .training, failures := 0, probesSent := 0, goodRun := 0, probeWait := 0, retrainTimer := none,
    inFlight := s.lanes[l].inFlight.map abandoned, waitingTrain := some h.ref }
  have outcome (t : State) (ht : ∃ m e os n, t = { (s.superseding l).taken.setLane l run with
        hm := m, ew := e, outputs := os, free := n })
      (out : t.outputs = recordWrite s t ++ (s.superseding l).outputs) :
      t.lanes[l] = run ∧ OtherLanesKept s t l ∧
        Hands s t (s.lanes[l].waitingTrain.toList.map fun old => ⟨old, .superseded, 0⟩) ∧
        (∀ old, s.lanes[l].waitingTrain = some old → t.pairs = (s.complete old .superseded 0).pairs ∧
          t.outputs = recordWrite s t ++ (s.complete old .superseded 0).outputs) ∧
        (s.lanes[l].waitingTrain = none → t.pairs = s.pairs ∧ t.outputs = recordWrite s t ++ s.outputs) ∧
        t.active = s.active ∧ t.edit = s.edit ∧ t.rings = s.rings ∧ t.sc = s.sc ∧ t.cycle = s.cycle := by
    obtain ⟨m, e, os', n, rfl⟩ := ht
    refine ⟨State.setLane_here _ l run, fun k hk => ?_, fun p hp => hands p hp, fun old hold => ?_, fun hold => ?_,
      ?_, ?_, ?_, ?_, ?_⟩
    · refine (State.setLane_other _ l run k hk).trans ?_
      rw [hsup]
      rfl
    · have superseded : s.superseding l = s.complete old .superseded 0 := by rw [State.superseding, hold]; rfl
      rw [superseded] at out ⊢
      exact ⟨rfl, out⟩
    · have idle : s.superseding l = s := by rw [State.superseding, hold]; rfl
      rw [idle] at out ⊢
      exact ⟨rfl, out⟩
    all_goals rw [hsup]; rfl
  by_cases h1 : s.lanes[l].state = .training
  · have trains := trainOwner_training (ref := h.ref) (s := s.taken) (laneOfByte_some hb) hz h1
    have same : (((s.taken.waitForTraining l h.ref).work.on fun t => t.setLane l t.lanes[l].beginRun).finish) =
        (s.superseding l).taken.setLane l run := by
      refine (State.postAll_nil _).trans ?_
      change (s.taken.waitForTraining l h.ref).setLane l (s.taken.waitForTraining l h.ref).lanes[l].beginRun = _
      rw [lane, waits, State.setLane_setLane]
      rfl
    have ew : (s.superseding l).ew = s.ew := by rw [hsup]
    have hm : (s.superseding l).hm = s.hm := by rw [hsup]
    have silent : recordWrite s ((s.superseding l).taken.setLane l run) = [] := by
      rw [recordWrite_eq]
      change (if s.ew.writing then [] else (s.superseding l).ew.begun) = []
      rw [ew]
      split
      · rfl
      · rename_i hw
        exact EventWriter.begun_nil (EventWriter.writing_eq_false.1 (Bool.eq_false_iff.2 hw)).1
    obtain ⟨hl, hothers, hhands, hsome, hnone, hact, hedit, hrings, hsc, hcycle⟩ :=
      outcome ((s.superseding l).taken.setLane l run) ⟨_, _, _, _, rfl⟩ (by rw [silent]; rfl)
    exact ⟨_, exec_held rfl hh (trains.trans same), hl, hothers, hhands, hsome, hnone, fun _ => ⟨ew, hm⟩,
      fun hn => absurd h1 hn, hact, hedit, hrings, hsc, hcycle⟩
  · have trains := trainOwner_changes (ref := h.ref) (s := s.taken) (laneOfByte_some hb) hz h0 h1
    have fields : (s.taken.waitForTraining l h.ref).dev = s.dev ∧ (s.taken.waitForTraining l h.ref).ew = s.ew ∧
        (s.taken.waitForTraining l h.ref).sc = s.sc ∧ (s.taken.waitForTraining l h.ref).hm = s.hm ∧
        (s.taken.waitForTraining l h.ref).outputs = (s.superseding l).outputs := by
      rw [waits, hsup]
      exact ⟨rfl, rfl, rfl, rfl, rfl⟩
    obtain ⟨fdev, few, fsc, fhm, fout⟩ := fields
    obtain ⟨posts, level, out, m, e, os', n, shape⟩ := Work.laneChange_finish (s := s)
      (w := (s.taken.waitForTraining l h.ref).work) l (s.taken.waitForTraining l h.ref).lanes[l].beginRun .trainCommand
      (by rw [State.work, fdev]; exact State.heldCommand_not_fatal hh) rfl few fsc fhm (by rw [State.work, lane])
    have begun : (s.taken.waitForTraining l h.ref).setLane l (s.taken.waitForTraining l h.ref).lanes[l].beginRun =
        (s.superseding l).taken.setLane l run := by
      rw [lane, waits, State.setLane_setLane]
      rfl
    rw [State.work, begun] at shape
    obtain ⟨hl, hothers, hhands, hsome, hnone, hact, hedit, hrings, hsc, hcycle⟩ :=
      outcome _ ⟨m, e, os', n, shape⟩ (out.trans (by rw [State.work, fout]))
    exact ⟨_, exec_held rfl hh trains, hl, hothers, hhands, hsome, hnone, fun ht => absurd ht h1,
      fun _ => ⟨posts, level⟩, hact, hedit, hrings, hsc, hcycle⟩

/-! ### Frames on a lane (R64, R67 to R69) -/

section
variable {s : State} {l : LaneId} (hs : s.serving = true)
include hs

theorem State.laneFrameBegins_free (hr : s.lanes[l].receiver = .idle)
    (hl : s.lanes[l].state = .training ∨ s.lanes[l].state = .ready) : s.laneFrameBegins l =
      s.setReceiver l (if s.lanes[l].awaitsReply then .reply else .stale s.lanes[l].staleNotify) :=
  if_pos (by rw [hs, hr, Lane.listens, decide_eq_true hl]; rfl)

omit hs in
theorem State.laneFrameBegins_deaf (hl : s.lanes[l].state = .off ∨ s.lanes[l].state = .faulted) :
    s.laneFrameBegins l = s := by
  refine if_neg fun hc => ?_
  simp only [Bool.and_eq_true, Lane.listens, decide_eq_true_eq] at hc
  obtain ⟨⟨-, hlisten⟩, -⟩ := hc
  obtain h | h := hl <;> rw [h] at hlisten <;> exact hlisten.elim nofun nofun

theorem State.staleFrame_ends {notify : Bool} {cells : List LineCell} {bits : List Bool}
    (hr : s.lanes[l].receiver = .stale notify) (hb : replyOf cells = some bits) :
    s.staleFrame l cells = s.endStale l notify (checkGood bits) bits := by
  unfold State.staleFrame
  rw [hs, hr, hb]

theorem State.lineIdleTimeout_idle {cells : List LineCell} (hb : replyOf cells = none) :
    (∀ notify, s.lanes[l].receiver = .stale notify →
      s.lineIdleTimeout l cells = s.endStale l notify false (frameBits cells)) ∧
      (s.lanes[l].receiver = .cutOff → s.lineIdleTimeout l cells = s.setReceiver l .idle) := by
  have goes : ¬ (s.serving = false ∨ (replyOf cells).isSome = true) := by
    rw [hs, hb]
    exact fun h => h.elim nofun nofun
  unfold State.lineIdleTimeout
  rw [if_neg goes]
  exact ⟨fun notify hr => by rw [hr], fun hr => by rw [hr]⟩

end

theorem State.staleFrame_unfinished {s : State} {l : LaneId} {cells : List LineCell} (hb : replyOf cells = none) :
    s.staleFrame l cells = s := by
  unfold State.staleFrame
  rw [hb]
  split
  · rename_i h
    cases h
  · rfl

theorem Lane.awaitsReply_of {x : Lane} {e : Exchange} (h : x.inFlight = some e) : x.awaitsReply = !e.settling := by
  rw [Lane.awaitsReply, h]

theorem Lane.awaitsReply_none {x : Lane} (h : x.inFlight = none) : x.awaitsReply = false := by
  rw [Lane.awaitsReply, h]

/-- A stale frame posts its notice with the echo as received (R69). -/
theorem State.endStale_notice {s : State} {l : LaneId} {good : Bool} {bits : List Bool} (h : 8 ≤ bits.length) :
    s.endStale l true good bits = (s.setReceiver l .idle).postAll
      [{ kind := .laneStaleReply, subject := BitVec.ofNat 16 l.val, cycle := s.sc.cycleCount, time := s.sc.localTime,
         detail := pack [((replyEcho bits).toNat, 0), (if good then 1 else 0, 8), (s.lanes[l].sequence.toNat, 16)] }] := by
  unfold State.endStale staleEcho
  rw [if_pos h]
  rfl

/-- Settles O34: each event by the state of the lane and of its receiver. -/
theorem framesAreRepliesStaleOrCutOff : Obligations.FramesAreRepliesStaleOrCutOff := by
  unfold Obligations.FramesAreRepliesStaleOrCutOff
  intro s l cells hs with' notice
  refine ⟨fun hr hl => ⟨fun x hx hset => ?_, fun hfree => ?_⟩, fun _ hl => ?_, fun bits hb => ⟨?_, fun hr => ?_, fun hr h8 => ?_⟩,
    fun hb => ⟨?_, ?_, fun hr => ?_, fun hr h8 => ?_, fun hr => ?_⟩, fun hr => ?_⟩
  · refine congrArg Host.Outcome.next ((State.laneFrameBegins_free hs hr hl).trans ?_)
    rw [Lane.awaitsReply_of hx, hset]
    rfl
  · refine congrArg Host.Outcome.next ((State.laneFrameBegins_free hs hr hl).trans ?_)
    have quiet : s.lanes[l].awaitsReply = false := by
      obtain h | ⟨x, hx, hset⟩ := hfree
      · exact Lane.awaitsReply_none h
      · rw [Lane.awaitsReply_of hx, hset]
        rfl
    rw [quiet]
    rfl
  · exact congrArg Host.Outcome.next (State.laneFrameBegins_deaf hl)
  · exact congrArg Host.Outcome.next (if_pos (.inr (by rw [hb]; rfl)))
  · exact congrArg Host.Outcome.next (State.staleFrame_ends hs hr hb)
  · exact congrArg Host.Outcome.next ((State.staleFrame_ends hs hr hb).trans (State.endStale_notice h8))
  · have unfinished : s.replyComplete l cells = s := by rw [State.replyComplete, hb]
    exact congrArg Host.Outcome.next unfinished
  · exact congrArg Host.Outcome.next (State.staleFrame_unfinished hb)
  · exact congrArg Host.Outcome.next ((State.lineIdleTimeout_idle hs hb).1 false hr)
  · exact congrArg Host.Outcome.next (((State.lineIdleTimeout_idle hs hb).1 true hr).trans (State.endStale_notice h8))
  · exact congrArg Host.Outcome.next ((State.lineIdleTimeout_idle hs hb).2 hr)
  · exact congrArg Host.Outcome.next (if_pos (by rw [hs, hr]; rfl))

end Sys2Proof.Machine

namespace Sys2Proof.Machine

set_option Elab.async false

/-! ### The lane outlook (R39) -/

/-- The entry fires on the lane in a cycle of this count. -/
def ActiveEntry.firesOn (l : LaneId) (count : Nat) (a : ActiveEntry) : Bool :=
  a.entry.kind.isLane && decide (a.entry.lane = l) && a.entry.fires count

theorem ActiveEntry.firesOn_iff {l : LaneId} {count : Nat} {a : ActiveEntry} : a.firesOn l count = true ↔
    a.entry.kind ≠ .marker ∧ a.entry.lane = l ∧ count % a.entry.period = a.entry.phase := by
  simp only [ActiveEntry.firesOn, Bool.and_eq_true, Kind.isLane_iff, decide_eq_true_eq, Entry.fires_iff, and_assoc]

/-- The next entry of the lane, not acted for yet, that fires in the cycle in hand. -/
def State.nextOnLane (s : State) (c : CycleInHand) (l : LaneId) : Option ActiveEntry :=
  (s.active.drop c.position).find? (ActiveEntry.firesOn l c.count)

theorem State.outlook_eq (s : State) (c : CycleInHand) (l : LaneId) : s.outlook c l =
    (s.nextOnLane c l).elim ((s.sc.plan.map Plan.bm).getD 0) fun a => a.entry.mark := by
  unfold State.outlook State.nextOnLane ActiveEntry.firesOn
  cases (s.active.drop c.position).find? fun a =>
    a.entry.kind.isLane && decide (a.entry.lane = l) && a.entry.fires c.count <;> rfl

section
variable {s : State} {c : CycleInHand} {l : LaneId}

theorem State.nextOnLane_first {i : Nat} {a : ActiveEntry} (hi : c.position ≤ i) (ha : s.active[i]? = some a)
    (hf : a.firesOn l c.count = true)
    (hn : ∀ k b, c.position ≤ k → k < i → s.active[k]? = some b → ¬ b.firesOn l c.count = true) :
    s.nextOnLane c l = some a := by
  have drop (j : Nat) : (s.active.drop c.position)[j]? = s.active[c.position + j]? := List.getElem?_drop
  have found : (s.active.drop c.position)[i - c.position]? = some a := by rw [drop, Nat.add_sub_cancel' hi, ha]
  obtain ⟨hl, hv⟩ := List.getElem?_eq_some_iff.1 found
  refine List.find?_eq_some_iff_getElem.2 ⟨hf, i - c.position, hl, hv, fun j hj => ?_⟩
  have at_j := (drop j).symm.trans (List.getElem?_eq_getElem (hj.trans hl))
  rw [Bool.not_eq_true', ← Bool.not_eq_true]
  exact hn _ _ (Nat.le_add_right _ _) (by omega) at_j

theorem State.nextOnLane_none
    (hn : ∀ i a, c.position ≤ i → s.active[i]? = some a → ¬ a.firesOn l c.count = true) : s.nextOnLane c l = none := by
  refine List.find?_eq_none.2 fun a ha => ?_
  obtain ⟨j, hj⟩ := List.mem_iff_getElem?.1 ha
  rw [List.getElem?_drop] at hj
  exact hn _ a (Nat.le_add_right _ _) hj

/-- The entry found stands at a position not acted for, fires on the lane, and is the first to do so. -/
theorem State.nextOnLane_some {a : ActiveEntry} (h : s.nextOnLane c l = some a) :
    ∃ i, c.position ≤ i ∧ s.active[i]? = some a ∧ a.firesOn l c.count = true ∧
      ∀ k b, c.position ≤ k → k < i → s.active[k]? = some b → ¬ b.firesOn l c.count = true := by
  obtain ⟨hf, j, hl, hv, hn⟩ := List.find?_eq_some_iff_getElem.1 h
  have drop (j : Nat) : (s.active.drop c.position)[j]? = s.active[c.position + j]? := List.getElem?_drop
  refine ⟨c.position + j, Nat.le_add_right _ _, ?_, hf, fun k b hk hkj hb => ?_⟩
  · rw [← drop, List.getElem?_eq_getElem hl, hv]
  · have hlt : k - c.position < j := by omega
    have at_k : (s.active.drop c.position)[k - c.position]? = some b := by rw [drop, Nat.add_sub_cancel' hk, hb]
    have value : (s.active.drop c.position)[k - c.position] = b := by
      rw [List.getElem?_eq_getElem (hlt.trans hl)] at at_k
      exact Option.some.inj at_k
    have quiet := hn _ hlt
    rw [value, Bool.not_eq_true'] at quiet
    exact Bool.eq_false_iff.1 quiet

end

/-- In a table in key order an earlier entry has no later mark. -/
theorem tableLaw_marks {s : State} (h : tableLaw s.activeEntries) {i j : Nat} {a b : ActiveEntry} (hij : i ≤ j)
    (ha : s.active[i]? = some a) (hb : s.active[j]? = some b) : a.entry.mark ≤ b.entry.mark := by
  obtain rfl | hlt := Nat.eq_or_lt_of_le hij
  · rw [ha] at hb
    cases hb
    exact Nat.le_refl _
  · obtain ⟨-, sorted, -⟩ := h
    have entry {k : Nat} {x : ActiveEntry} (hx : s.active[k]? = some x) :
        ∃ hk : k < s.activeEntries.length, s.activeEntries[k] = x.entry := by
      refine List.getElem?_eq_some_iff.1 ?_
      rw [State.activeEntries, List.getElem?_map, hx]
      rfl
    obtain ⟨hi, ei⟩ := entry ha
    obtain ⟨hj, ej⟩ := entry hb
    have order := List.pairwise_iff_getElem.1 sorted i j hi hj hlt
    rw [ei, ej, Entry.before, decide_eq_true_eq] at order
    omega

/-! ### Host exchanges (R63, R66, R76, R78) -/

theorem State.hostDeadline_local {s : State} {e : HostExchange} (h : s.dev = .running ∨ s.dev = .halted) :
    s.hostDeadline e = .atLocal (s.sc.localTime + BitVec.ofNat 32 e.window) := by
  refine if_pos ?_
  unfold State.timeRuns
  obtain h | h := h <;> rw [h]

theorem State.hostDeadline_clocks {s : State} {e : HostExchange} (hr : s.dev ≠ .running) (hh : s.dev ≠ .halted) :
    s.hostDeadline e = .inClocks (e.window * s.nominalStu) := by
  refine if_neg ?_
  unfold State.timeRuns
  cases h : s.dev with
  | running => exact absurd h hr
  | halted => exact absurd h hh
  | off => nofun
  | config => nofun
  | fatal => nofun

theorem State.hostMayStart_iff {s : State} {l : LaneId} {q : WaitingExchange} {rest : List WaitingExchange}
    (hq : s.lanes[l].queue = q :: rest) : s.hostMayStart l = true ↔ s.serving = true ∧ s.lanes[l].state = .ready ∧
      s.lanes[l].inFlight = none ∧ (s.dev = .running → s.sc.sync = .locked →
        ∃ c, s.cycle = some c ∧ q.exchange.window + s.sc.cycleTime ≤ s.outlook c l) := by
  have fitted : (if s.dispatching then
        match s.cycle with
        | some c => decide (q.exchange.window + s.sc.cycleTime ≤ s.outlook c l)
        | none => false
      else true) = true ↔ (s.dev = .running → s.sc.sync = .locked →
        ∃ c, s.cycle = some c ∧ q.exchange.window + s.sc.cycleTime ≤ s.outlook c l) := by
    by_cases hd : s.dispatching = true
    · obtain ⟨hr, hl⟩ := State.dispatching_iff.1 hd
      rw [if_pos hd]
      cases s.cycle <;> simp [hr, hl]
    · rw [if_neg hd]
      exact iff_of_true rfl fun hr hl => absurd (State.dispatching_iff.2 ⟨hr, hl⟩) hd
  unfold State.hostMayStart
  simp only [hq, Bool.and_eq_true, decide_eq_true_eq, Option.isNone_iff_eq_none, and_assoc]
  exact and_congr_right' (and_congr_right' (and_congr_right' fitted))

theorem State.hostExchangeStart_idle {s : State} {l : LaneId} (h : s.hostMayStart l = false) :
    s.hostExchangeStart l = s := by
  unfold State.hostExchangeStart
  rw [h]

theorem State.hostExchangeStart_starts {s : State} {l : LaneId} {q : WaitingExchange} {rest : List WaitingExchange}
    (hq : s.lanes[l].queue = q :: rest) (h : s.hostMayStart l = true) : s.hostExchangeStart l =
      (s.setLane l { s.lanes[l] with queue := rest }).sendRequest l (.host q.exchange) q.exchange.kind
        q.exchange.outWords q.exchange.inCount (s.hostDeadline q.exchange) := by
  unfold State.hostExchangeStart
  rw [h, hq]

theorem countsFit_iff {k : Kind} {o i : Nat} : countsFit k o i = true ↔
    (if k = .send ∨ k = .swap then 1 ≤ o ∧ o ≤ 16 else o = 0) ∧
      (if k = .fetch ∨ k = .swap then 1 ≤ i ∧ i ≤ 16 else i = 0) := by
  cases k <;> simp [countsFit, countFits, Kind.sends, Kind.receives]

section
variable {r : CommandRecord} {ref : CmdRef} {s : State} {l : LaneId} {k : Kind}

theorem laneExchangeOwner_unnamed (h : laneOfByte (recordByte r 8) = none ∨ kindOfCode (recordByte r 9) = none) :
    laneExchangeOwner r ref s = s.complete ref .badField 0 := by
  unfold laneExchangeOwner
  split
  · rename_i hl hk
    rw [hl, hk] at h
    exact h.elim nofun nofun
  · rfl

variable (hl : laneOfByte (recordByte r 8) = some l) (hk : kindOfCode (recordByte r 9) = some k)
include hl hk

/-- LANE EXCHANGE on a named lane and kind: its checks in order (R76). -/
theorem laneExchangeOwner_named : laneExchangeOwner r ref s =
    if k = .marker ∨ countsFit k (recordByte r 10) (recordByte r 11) = false ∨ recordField16 r 12 < 4 ∨
        4095 < recordField16 r 12 ∨ reservedZero r ([(8, 13), (16, 23)] ++ wordBytes (recordByte r 10)) = false then
      s.complete ref .badField 0
    else if recordField16 r 12 < minimumWindow (recordByte r 10) (recordByte r 11) s.lanes[l].rate s.nominalStu then
      s.complete ref .windowShort 0
    else if s.lanes[l].state ≠ .ready then s.complete ref .laneNotReady 0
    else if 4 ≤ s.lanes[l].queue.length then s.complete ref .queueFull 0
    else s.setLane l { s.lanes[l] with
      queue := s.lanes[l].queue ++
        [{ exchange := { ref := ref, kind := k, outWords := recordWords r (recordByte r 10), inCount := recordByte r 11,
                         window := recordField16 r 12, address := recordAddress r 16 }, giveUps := 0 }] } := by
  simp only [laneExchangeOwner, hl, hk]

end

/-- Settles O27: the command by its checks in order, the start by whether it may be, the outlook by the first entry of the
lane that fires, and the deadline by whether the time base runs. -/
theorem hostExchangesQueueAndStart : Obligations.HostExchangesQueueAndStart := by
  unfold Obligations.HostExchangesQueueAndStart
  refine ⟨fun s h l k hh hb hk => ?_, fun s h hh hbad => ?_, fun s l => ⟨fun hn => ?_, fun q rest hq =>
      ⟨State.hostMayStart_iff hq, fun hm => ⟨?_, requestCells_IsRequest⟩⟩⟩, fun s l c p hp => ?_,
    fun s e => ⟨State.hostDeadline_local, fun hr hh => ?_⟩⟩
  · intro o i w stu fits
    have named := laneExchangeOwner_named (ref := h.ref) (s := s.taken) (laneOfByte_some hb) hk
    have checks : (k = .marker ∨ countsFit k o i = false ∨ w < 4 ∨ 4095 < w ∨
        reservedZero h.record ([(8, 13), (16, 23)] ++ wordBytes o) = false) ↔ ¬ fits := by
      simp only [eq_false_iff_not, countsFit_iff, ← Nat.not_le, ← not_and_or, fits, and_assoc, ne_eq]
      tauto
    have nominal : s.taken.nominalStu = stu := by
      change (s.sc.plan.map Plan.stu).getD 100 = stu
      cases hp : s.sc.plan <;> simp [stu, hp]
    rw [nominal] at named
    refine ⟨fun hf => .of_owner rfl hh (named.trans (if_pos (checks.2 hf))), fun hf => ?_⟩
    have fit := named.trans (if_neg fun hc => checks.1 hc hf)
    refine ⟨fun hw => .of_owner rfl hh (fit.trans (if_pos hw)), fun hw => ?_⟩
    have wide := fit.trans (if_neg (Nat.not_lt.2 hw))
    refine ⟨fun hr => .of_owner rfl hh (wide.trans (if_pos hr)), fun hr => ?_⟩
    have ready := wide.trans (if_neg (not_not.2 hr))
    exact ⟨fun hq => .of_owner rfl hh (ready.trans (if_pos hq)),
      fun hq => exec_held rfl hh (ready.trans (if_neg (Nat.not_le.2 hq)))⟩
  · by_cases hl : 7 < recordByte h.record 8
    · exact .of_owner rfl hh (laneExchangeOwner_unnamed (.inl (laneOfByte_none hl)))
    · cases hk : kindOfCode (recordByte h.record 9) with
      | none => exact .of_owner rfl hh (laneExchangeOwner_unnamed (.inr hk))
      | some k =>
        have marker : k = .marker := by
          have code := kindOfCode_eq_some.1 hk
          have out := hbad.resolve_left hl
          rw [← code] at out
          cases k <;> simp_all [Kind.code]
        have lane : laneOfByte (recordByte h.record 8) = some ⟨recordByte h.record 8, by omega⟩ := laneOfByte_some rfl
        exact .of_owner rfl hh ((laneExchangeOwner_named (s := s.taken) lane hk).trans (if_pos (.inl marker)))
  · exact congrArg Host.Outcome.next (State.hostExchangeStart_idle hn)
  · have starts := State.hostExchangeStart_starts hq hm
    rw [State.setLane_sendRequest] at starts
    exact congrArg Host.Outcome.next starts
  · intro fires next
    have on (a : ActiveEntry) : a.firesOn l c.count = true ↔ fires a := ActiveEntry.firesOn_iff
    have none_ (hn : ∀ i a, c.position ≤ i → s.active[i]? = some a → ¬ fires a) : s.outlook c l = p.bm := by
      rw [State.outlook_eq, State.nextOnLane_none fun i a hi ha hf => hn i a hi ha ((on a).1 hf), hp]
      rfl
    refine ⟨fun i a hi ha hf hn => ?_, none_, fun hlaw hacted => ⟨fun a ha hnext hleast => ?_, fun hn => ?_⟩⟩
    · rw [State.outlook_eq, State.nextOnLane_first hi ha ((on a).2 hf)
        fun k b hk hki hb hfb => hn k b hk hki hb ((on b).1 hfb)]
      rfl
    · obtain ⟨i, hi⟩ := List.mem_iff_getElem?.1 ha
      have ahead : c.position ≤ i := Nat.not_lt.1 fun hlt => Nat.not_le.2 hnext.2 ((hacted i a hi hnext.1).1 hlt)
      rw [State.outlook_eq]
      cases hfound : s.nextOnLane c l with
      | none =>
        have missed := List.find?_eq_none.1 hfound a (List.mem_iff_getElem?.2
          ⟨i - c.position, by rw [List.getElem?_drop, Nat.add_sub_cancel' ahead, hi]⟩)
        exact absurd ((on a).2 hnext.1) missed
      | some b =>
        obtain ⟨j, hj, hb, hfb, hfirst⟩ := State.nextOnLane_some hfound
        have later : s.sc.cycleTime < b.entry.mark :=
          Nat.not_le.1 fun hle => absurd ((hacted j b hb ((on b).1 hfb)).2 hle) (Nat.not_lt.2 hj)
        have upper := hleast b (List.mem_of_getElem? hb) ⟨(on b).1 hfb, later⟩
        have first : j ≤ i := Nat.not_lt.1 fun hlt => hfirst i a ahead hlt hi ((on a).2 hnext.1)
        exact Nat.le_antisymm (tableLaw_marks hlaw first hb hi) upper
    · refine none_ fun i a hi ha hf => hn a (List.mem_of_getElem? ha) ⟨hf, ?_⟩
      exact Nat.not_le.1 fun hle => absurd ((hacted i a ha hf).2 hle) (Nat.not_lt.2 hi)
  · rw [State.hostDeadline_clocks hr hh]
    unfold State.nominalStu
    cases s.sc.plan <;> rfl

end Sys2Proof.Machine

/-! PROOFS. START, STOP and HALTED: the controller, the Schedule Table and the Health Monitor as the device state changes. -/

namespace Sys2Proof.Machine

set_option Elab.async false

/-! ### Parts of a step that one block posts in (R157) -/

/-- A part of a step in which the Health Monitor has posted nothing ends with its events offered in order. -/
theorem Work.flush_others {w : Work} (hd : w.s.dev ≠ .fatal) (hh : w.health = []) :
    ∃ os, w.flush = State.work { w.s with ew := w.s.ew.offers w.s.sc.localTime w.others, outputs := os } := by
  have ends : w.finish = w.s.postAll w.others := if_pos (by rw [hh]; rfl)
  exact ⟨_, congrArg State.work (ends.trans (State.postAll_offers w.others hd))⟩

/-- A part of a step in which the Health Monitor alone posts ends, after an evaluation of the level, with its events
offered in order. -/
theorem Work.evaluate_finish_health {w : Work} (hd : w.s.dev ≠ .fatal) (ho : w.others = []) :
    let t := w.evaluate.finish
    ∃ os, t = { w.s with
      hm := w.s.healthNow, ew := w.s.ew.offers w.s.sc.localTime (w.health ++ healthChange w.s t), outputs := os } := by
  intro t
  have ends : t = w.evaluate.s.postAll w.evaluate.health :=
    Work.finish_health (by rw [Work.evaluate_spec]; exact ho)
  rw [Work.evaluate_spec] at ends
  have offered := ends.trans (State.postAll_offers _ hd)
  have change : healthChange w.s t = healthChange w.s { w.s with hm := w.s.healthNow } := by
    rw [offered]
    rfl
  rw [change]
  exact ⟨_, offered⟩

/-! ### START (R169) -/

theorem effectiveMicro_zero (stu : Nat) : effectiveMicro stu 0 = stu * 1000000 := by
  unfold effectiveMicro
  omega

/-- The time base as START makes it: the first STU has its nominal length (R98, R121). -/
theorem TimeSync.started_stu (t : TimeSync) (p : Plan) : ((t.started p).nextStu p.stu).stuLeft = p.stu := by
  show (0 + effectiveMicro p.stu 0) / 1000000 = p.stu
  rw [effectiveMicro_zero]
  omega

/-- The machine as START leaves it, but for the level and what has been posted (R169). -/
def State.startedUp (s : State) (p : Plan) : State :=
  let t := { s with
    dev := .running, haltCause := .none, sc := { (s.sc.started p).nextStu p.stu with sync := .unsynced } }
  { t with hm := t.healthStarted }

theorem State.healthStarted_degraded (s : State) : s.healthStarted.degraded = false := by
  unfold State.healthStarted
  split <;> rfl

theorem State.healthStarted_expected (s : State) : s.healthStarted.expected = s.expectedNow := by
  unfold State.healthStarted
  split <;> rfl

/-- START posts SYNC_STATE, and then HEALTH if the conditions as they stand make the level DEGRADED (R112, R129). -/
theorem State.startDevice_spec (s : State) (p : Plan) :
    let t := s.startDevice p
    ∃ os, t = { s.startedUp p with
      hm := (s.startedUp p).healthNow,
      ew := (s.ew.offers 0 (syncEvents { s with sc := s.sc.started p } 0 .unsynced 1)).offers 0
        (if t.hm.degraded then [t.healthEvent false] else []),
      outputs := os } := by
  intro t
  let begun : State := { s with dev := .running, haltCause := .none, sc := (s.sc.started p).nextStu p.stu }
  obtain ⟨os, flushed⟩ := Work.flush_others (w := begun.work.setSync .unsynced .start)
    (by rw [Work.setSync_spec]; exact nofun) (by rw [Work.setSync_spec]; rfl)
  rw [Work.setSync_spec] at flushed
  obtain ⟨os', evaluated⟩ := Work.evaluate_finish_health
    (w := (begun.work.setSync .unsynced .start).flush.on fun u => { u with hm := u.healthStarted })
    (by rw [Work.setSync_spec, flushed]; exact nofun) (by rw [Work.setSync_spec, flushed]; rfl)
  have change (u : State) (h : u.hm.degraded = false) :
      healthChange u t = if t.hm.degraded then [t.healthEvent false] else [] := by
    unfold healthChange
    rw [h]
    cases t.hm.degraded <;> rfl
  have level : t = ((begun.work.setSync .unsynced .start).flush.on fun u => { u with hm := u.healthStarted }).evaluate.finish :=
    rfl
  rw [← level, Work.setSync_spec, flushed, change _ (State.healthStarted_degraded _)] at evaluated
  exact ⟨os', evaluated⟩

section
variable {r : CommandRecord} {ref : CmdRef} {s : State}

theorem startOwner_reserved (hz : reservedZero r [] = false) : startOwner r ref s = s.complete ref .badField 0 :=
  if_pos hz

variable (hz : reservedZero r [] = true)
include hz

theorem startOwner_wrongState (hd : s.dev ≠ .config) : startOwner r ref s = s.complete ref .wrongState 0 :=
  (if_neg (by rw [hz]; exact nofun)).trans (if_pos hd)

theorem startOwner_violation (hd : s.dev = .config) {v : Violation} (hv : s.validate s.activeEntries = some v) :
    startOwner r ref s = s.complete ref v.status v.result := by
  simp only [startOwner, hz, hd, hv, Bool.true_eq_false, ne_eq, not_true_eq_false, if_false]

theorem startOwner_starts (hd : s.dev = .config) {p : Plan} (hv : s.validate s.activeEntries = none)
    (hp : s.sc.plan = some p) : startOwner r ref s = (s.startDevice p).complete ref .ok 0 := by
  simp only [startOwner, hz, hd, hv, hp, Bool.true_eq_false, ne_eq, not_true_eq_false, if_false]

end

/-- SYNC_STATE as START posts it (R112, section 11.3). -/
theorem syncEvents_from_off {s : State} (h : s.sc.sync = .off) (count : Nat) : syncEvents s count .unsynced 1 =
    [{ kind := .syncState, subject := 0xFFFF, cycle := count, time := s.sc.localTime, detail := pack [(1, 0), (1, 16)] }] := by
  unfold syncEvents
  rw [h]
  rfl

/-- E counts the lane entries of the active table (R130). -/
theorem State.expectedNow_entries {s : State} {p : Plan} (hp : s.sc.plan = some p) :
    s.expectedNow = ((s.activeEntries.filter fun e => e.kind.isLane).map fun e => p.matrix / e.period).sum := by
  unfold State.expectedNow State.activeEntries
  rw [hp, List.filter_map, List.map_map]
  rfl

/-- Settles O58: START by its checks in order, and the started machine. -/
theorem startBeginsTheCycle : Obligations.StartBeginsTheCycle := by
  unfold Obligations.StartBeginsTheCycle
  intro s h hh h0
  refine ⟨fun hz => .of_admin rfl hh h0 (startOwner_reserved hz), fun hz =>
    ⟨fun hd => .of_admin rfl hh h0 (startOwner_wrongState (s := s.taken) hz hd), fun hd =>
      ⟨fun v hv => .of_admin rfl hh h0 (startOwner_violation (s := s.taken) hz hd hv), fun p hv hp => ?_⟩⟩⟩
  have started : exec .start s = .next ((s.taken.startDevice p).complete h.ref .ok 0) :=
    exec_admin rfl hh h0 (startOwner_starts (s := s.taken) hz hd hv hp)
  obtain ⟨os, up⟩ := s.taken.startDevice_spec p
  obtain ⟨ps, os', shape⟩ := (s.taken.startDevice p).complete_shape h.ref .ok 0
  have hands := (s.taken.startDevice p).complete_Hands h.ref .ok 0
  generalize s.taken.startDevice p = u at started up shape hands
  have hsc : u.sc = { (s.sc.started p).nextStu p.stu with sync := .unsynced } := congrArg State.sc up
  have hhm : u.hm = (s.taken.startedUp p).healthNow := congrArg State.hm up
  have level : u.healthNow = u.hm := (congrArg State.healthNow up).trans hhm.symm
  have pairs : u.pairs = s.pairs := (congrArg State.pairs up :)
  let begun : State :=
    { s.taken with
      dev := .running, haltCause := .none, sc := { (s.sc.started p).nextStu p.stu with sync := .unsynced } }
  have reports : begun.reportsOn = p.reports := congrArg (fun o => (o.map Plan.reports).getD false) hp
  have monitor : u.hm = { begun.healthStarted with
      weakEntry := u.hm.weakEntry, disabledEntry := u.hm.disabledEntry, trimSuspended := u.hm.trimSuspended,
      laneDown := u.hm.laneDown, degraded := u.hm.degraded } := by
    rw [hhm]
    rfl
  have expected : u.hm.expected =
      ((s.activeEntries.filter fun e => e.kind.isLane).map fun e => p.matrix / e.period).sum := by
    rw [hhm]
    exact (State.healthStarted_expected _).trans (State.expectedNow_entries hp)
  refine ⟨_, started, ?_⟩
  rw [shape]
  refine ⟨congrArg State.dev up, congrArg State.haltCause up, congrArg TimeSync.sync hsc, congrArg TimeSync.role hsc,
    congrArg TimeSync.localTime hsc, congrArg TimeSync.cycleTime hsc, congrArg TimeSync.cycleCount hsc,
    (congrArg TimeSync.stuLeft hsc).trans (s.sc.started_stu p), congrArg TimeSync.trim hsc,
    congrArg TimeSync.trimState hsc, congrArg TimeSync.lastLeader hsc, congrArg TimeSync.firstFreeRun hsc,
    (congrArg TimeSync.plan hsc).trans hp, (congrArg TimeSync.sending hsc :), expected, fun hr => ?_, fun hr => ?_, ?_, level,
    fun off => ?_, fun hs => ?_, (congrArg State.active up :), (congrArg State.edit up :), (congrArg State.session up :),
    (congrArg State.lanes up :), (congrArg State.rings up :)⟩
  · rw [show begun.healthStarted = _ from if_pos (reports.trans hr)] at monitor
    refine ⟨congrArg HealthMonitor.matrixNumber monitor, _, congrArg HealthMonitor.openRecord monitor, rfl, rfl, ?_, rfl,
      rfl, rfl⟩
    exact (congrArg HealthMonitor.expected monitor).symm
  · rw [show begun.healthStarted = _ from if_neg (by rw [reports, hr]; exact nofun)] at monitor
    exact (congrArg HealthMonitor.openRecord monitor :)
  · exact (congrArg HealthMonitor.closed monitor).trans begun.healthStarted_closed
  · intro start
    have offered : u.ew = (s.ew.offers 0 (syncEvents { s.taken with sc := s.sc.started p } 0 .unsynced 1)).offers 0
        (if u.hm.degraded then [u.healthEvent false] else []) := congrArg State.ew up
    rw [syncEvents_from_off (s := { s.taken with sc := s.sc.started p }) off] at offered
    exact offered
  · rw [← pairs] at hs ⊢
    have handed := hands h.pair hs
    rw [shape] at handed
    simpa [Held.ref] using handed

end Sys2Proof.Machine

/-! PROOFS. A pending swap performed at once, the sync states left and the matrix record closed: STOP and HALTED. -/

namespace Sys2Proof.Machine

set_option Elab.async false

/-! ### A pending swap (R18 to R22) -/

/-- The tables, E and the open matrix record after a pending swap has been performed, where one is pending. -/
def State.performed (s : State) (atOnce : Bool) : State := if s.pendingCommit = none then s else s.swapped atOnce

/-- A pending swap leads to the performed tables, with its completions handed. -/
theorem State.swapPending_spec (s : State) (atOnce : Bool) :
    (∃ ps os, s.swapPending atOnce = { s.performed atOnce with pairs := ps, outputs := os }) ∧
      Hands s (s.swapPending atOnce) (s.pendingCommit.toList.flatMap fun ref => swapCompletions s ref) ∧
      ∀ p : PairId, (s.swapPending atOnce).pairs[p].serves = s.pairs[p].serves := by
  unfold State.swapPending State.performed State.pendingCommit
  match h : s.session with
  | none => exact ⟨⟨s.pairs, s.outputs, rfl⟩, .refl rfl, fun _ => rfl⟩
  | some ⟨owner, none⟩ => exact ⟨⟨s.pairs, s.outputs, rfl⟩, .refl rfl, fun _ => rfl⟩
  | some ⟨owner, some ref⟩ =>
    have swapped := s.swap_spec ref atOnce
    simpa [Session.commit] using swapped

theorem State.performed_swaps (s : State) (atOnce : Bool) (h : s.pendingCommit ≠ none) :
    (s.performed atOnce).activeEntries = s.edit ∧ (s.performed atOnce).session = none ∧
      (s.performed atOnce).edit = [] := by
  unfold State.performed
  rw [if_neg h]
  exact ⟨swap_entries s.edit s.active, rfl, rfl⟩

/-- Without a pending commit nothing is performed. -/
theorem State.performed_none {s : State} (h : s.pendingCommit = none) (atOnce : Bool) : s.performed atOnce = s := if_pos h

/-- The performed tables are those of the swap (R19, R20). -/
theorem State.performed_Swapped {s t : State} {p : Plan} (hp : s.sc.plan = some p) {atOnce : Bool}
    (h : s.pendingCommit ≠ none) (ha : t.active = (s.performed atOnce).active) (he : t.edit = (s.performed atOnce).edit)
    (hn : t.session = (s.performed atOnce).session) (hm : t.hm.expected = (s.performed atOnce).hm.expected) :
    Swapped s t p := by
  rw [show s.performed atOnce = s.swapped atOnce from if_neg h] at ha he hn hm
  exact State.swapped_Swapped hp ha he hn hm

theorem State.performed_NotSwapped {s t : State} {atOnce : Bool} (h : s.pendingCommit = none)
    (ha : t.active = (s.performed atOnce).active) (he : t.edit = (s.performed atOnce).edit)
    (hn : t.session = (s.performed atOnce).session) (hm : t.hm.expected = (s.performed atOnce).hm.expected) :
    NotSwapped s t := by
  rw [State.performed_none h] at ha he hn hm
  exact ⟨ha, he, hn, hm⟩

/-- The open matrix record once a pending swap has been performed at once and it has been flagged (R130, R133). -/
theorem State.performed_openRecord (s : State) (flagged : Bool) :
    ((s.performed true).hm.openRecord.toList.map fun (m : MatrixRecord) => { m with isPartial := m.isPartial || flagged }) =
      s.hm.openRecord.toList.map fun m => { m with
        expected := if s.pendingCommit = none then m.expected else (s.performed true).hm.expected,
        isPartial := m.isPartial || decide (s.pendingCommit ≠ none) || flagged } := by
  unfold State.performed
  cases s.pendingCommit with
  | none => simp
  | some ref => cases hm : s.hm.openRecord <;> simp [State.swapped, hm]

theorem State.performed_lane (s : State) (atOnce : Bool) (l : LaneId) :
    (s.performed atOnce).lanes[l] = { s.lanes[l] with
      inFlight := if s.pendingCommit = none then (s.lanes[l]).inFlight else (s.lanes[l]).inFlight.map (afterSwap s) } := by
  unfold State.performed
  split
  · rfl
  · exact s.swapped_lane atOnce l

/-- A swap leaves the controller, the rings, the Event Writer, the device and the level. -/
theorem State.performed_keeps (s : State) (atOnce : Bool) :
    s.performed atOnce = { s with
      active := (s.performed atOnce).active, edit := (s.performed atOnce).edit, session := (s.performed atOnce).session,
      lanes := (s.performed atOnce).lanes, hm := (s.performed atOnce).hm } ∧
    (s.performed atOnce).hm = { s.hm with
      expected := (s.performed atOnce).hm.expected, openRecord := (s.performed atOnce).hm.openRecord } := by
  unfold State.performed
  split <;> exact ⟨rfl, rfl⟩

/-! ### The matrix record closed (R131, R133, R134) -/

theorem HealthMonitor.closeRecord_eq (h : HealthMonitor) :
    h.closeRecord = { h with openRecord := none, closed := h.closed ++ h.openRecord.toList } := by
  obtain ⟨_, _, _, _, _, _, _, m, _, _⟩ := h
  cases m <;> simp [HealthMonitor.closeRecord]

/-- The records of `h` as its open record is closed, flagged if `partly`. -/
def HealthMonitor.closing (h : HealthMonitor) (partly : Bool) : List MatrixRecord :=
  h.closed ++ h.openRecord.toList.map fun m => { m with isPartial := m.isPartial || partly }

theorem HealthMonitor.closeRecord_flagged (h : HealthMonitor) (partly : Bool) :
    (if partly then h.flagPartial else h).closeRecord = { h with openRecord := none, closed := h.closing partly } := by
  rw [HealthMonitor.closeRecord_eq]
  unfold HealthMonitor.closing HealthMonitor.flagPartial
  cases partly <;> cases hm : h.openRecord <;> simp [hm]

/-- A step that ends as the matrix record is closed: what is ready is posted, and then HEALTH if the level changes. -/
theorem Work.closeMatrix_finish {w : Work} (hd : w.s.dev ≠ .fatal) (ho : w.others = []) (hh : w.health = []) (partly : Bool) :
    let t := (w.closeMatrix partly).finish
    let last := w.s.hm.closing partly
    ∃ os, t = { w.s with
      hm := State.healthNow { w.s with
        hm := { w.s.hm with openRecord := none, closed := last.filter fun m => decide (m.inFlight ≠ 0) } },
      ew := w.s.ew.offers w.s.sc.localTime (readyRecords last ++ healthChange w.s t), outputs := os } := by
  intro t last
  let kept : HealthMonitor :=
    { w.s.hm with openRecord := none, closed := last.filter fun m => decide (m.inFlight ≠ 0) }
  let closed : Work :=
    { s := { w.s with hm := kept }, others := w.others, health := w.health ++ readyRecords last }
  have closes : w.closeMatrix partly = closed.evaluate := by
    unfold Work.closeMatrix Work.postReady Work.on
    simp only [HealthMonitor.closeRecord_flagged]
    rfl
  obtain ⟨os, h⟩ := Work.evaluate_finish_health (w := closed) hd ho
  rw [← closes] at h
  refine ⟨os, h.trans ?_⟩
  have posted : closed.health = readyRecords last := by
    show w.health ++ _ = _
    rw [hh, List.nil_append]
  rw [posted]
  rfl

/-! ### The sync states left (R117) -/

/-- What a pair serves does not change as the sync states are left. -/
theorem Work.leaveSync_serves (w : Work) (cause : SyncCause) (p : PairId) :
    (w.leaveSync cause).s.pairs[p].serves = w.s.pairs[p].serves := by
  let left : Work := ((w.setSync .off cause).on fun s => { s with sc := { s.sc with
    receiving := none, sending := s.sc.sending.map fun (b : OwnBeacon) => { b with counts := false } } }).demote .stopped
  have pairs : left.s.pairs = w.s.pairs := by
    obtain ⟨n, hd⟩ := ((w.setSync .off cause).on fun s => { s with sc := { s.sc with
      receiving := none,
      sending := s.sc.sending.map fun (b : OwnBeacon) => { b with counts := false } } }).demote_spec .stopped
    rw [show left.s = _ from hd, Work.setSync_spec]
    rfl
  show (if left.s.sc.hold then left.s.endResign .cancelled 0 else left.s).pairs[p].serves = _
  rw [← pairs]
  split
  · unfold State.endResign
    cases left.s.sc.resign with
    | none => rfl
    | some ref => exact State.complete_keeps_serves _ ref .cancelled 0 p
  · rfl

/-- The part of a step that ends as the sync states are left. -/
theorem Work.leaveSync_flush {w : Work} (hd : w.s.dev ≠ .fatal) (hh : w.health = []) (cause : SyncCause) :
    ∃ (ps : Vector Pair 4) (os : List Output) (n : Nat), (w.leaveSync cause).flush = State.work { w.s with
      sc := { w.s.sc with
        sync := .off, receiving := none,
        sending := w.s.sc.sending.map fun (b : OwnBeacon) => { b with counts := false },
        role := if w.s.sc.role = .leader then .backup else w.s.sc.role, trimState := trimAfterLeading w.s,
        goodRun := n, hold := false, resign := if w.s.sc.hold then none else w.s.sc.resign },
      pairs := ps, outputs := os,
      ew := w.s.ew.offers w.s.sc.localTime (w.others ++ syncEvents w.s w.s.sc.cycleCount .off cause.code ++
        stepDown w.s w.s.sc.cycleCount 5) } ∧
    Hands w.s (w.leaveSync cause).flush.s
      (if w.s.sc.hold then w.s.sc.resign.toList.map fun ref => ⟨ref, .cancelled, 0⟩ else []) ∧
    ∀ p : PairId, (w.leaveSync cause).flush.s.pairs[p].serves = w.s.pairs[p].serves := by
  obtain ⟨⟨ps, os, n, hs⟩, hands, ho, hl⟩ := w.leaveSync_spec cause
  obtain ⟨os', hf⟩ := Work.flush_others (w := w.leaveSync cause) (by rw [hs]; exact hd) (hl.trans hh)
  rw [hs, ho] at hf
  have serves := w.leaveSync_serves cause
  rw [hs] at hands serves
  refine ⟨ps, os', n, hf, ?_⟩
  rw [hf]
  exact ⟨hands, serves⟩

end Sys2Proof.Machine

namespace Sys2Proof.Machine

set_option Elab.async false

/-! ### STOP (R170) -/

/-- What STOP has left of the controller, `y`, before the time base stops: OFF, with what leaving a sync state ends (R117,
R170). -/
def TimeSync.LeftBy (y : TimeSync) (s : State) : Prop :=
  y = { s.sc with
    sync := .off, receiving := y.receiving, sending := y.sending, role := y.role, trimState := y.trimState,
    goodRun := y.goodRun, hold := y.hold, resign := y.resign } ∧
  (s.sc.sync ≠ .off → y.receiving = none ∧ y.hold = false ∧ (s.sc.hold = true → y.resign = none) ∧
    (∀ b, y.sending = some b → b.counts = false) ∧
    y.role = (if s.sc.role = .leader then .backup else s.sc.role) ∧ y.trimState = trimAfterLeading s)

/-- The events of the controller at STOP (R104, R112, R121). -/
def State.stopEvents (s : State) : List Event :=
  if s.sc.sync = .off then [] else syncEvents s s.sc.cycleCount .off 6 ++ stepDown s s.sc.cycleCount 5

/-- The part of a STOP that ends before the time base stops. -/
theorem State.stop_flush {s : State} (hd : s.dev ≠ .fatal) :
    let w := s.work
    let u := (if s.sc.sync = .off then w else w.leaveSync .stopped).flush
    (∃ (ps : Vector Pair 4) (os : List Output) (y : TimeSync), y.LeftBy s ∧
      u = State.work { s with sc := y, pairs := ps, outputs := os, ew := s.ew.offers s.sc.localTime s.stopEvents }) ∧
    Hands s u.s (if s.sc.sync ≠ .off ∧ s.sc.hold = true then
      s.sc.resign.toList.map fun ref => ⟨ref, .cancelled, 0⟩ else []) ∧
    ∀ p : PairId, u.s.pairs[p].serves = s.pairs[p].serves := by
  intro w u
  unfold State.stopEvents
  by_cases off : s.sc.sync = .off
  · have idle : u = State.work s := by
      show Work.flush (if s.sc.sync = .off then w else w.leaveSync .stopped) = _
      rw [if_pos off]
      exact congrArg State.work (s.postAll_nil)
    rw [idle, if_pos off, if_neg (fun h => h.1 off)]
    exact ⟨⟨s.pairs, s.outputs, s.sc, ⟨by rw [← off], fun h => absurd off h⟩, rfl⟩, .refl rfl, fun _ => rfl⟩
  · obtain ⟨ps, os, n, hs, hands, serves⟩ := Work.leaveSync_flush (w := w) hd rfl .stopped
    have left : u = (w.leaveSync .stopped).flush := congrArg Work.flush (if_neg off)
    rw [left, if_neg off]
    refine ⟨⟨ps, os, _, ⟨rfl, fun _ => ⟨rfl, rfl, fun h => if_pos h, fun b hb => ?_, rfl, rfl⟩⟩, hs⟩, ?_, serves⟩
    · obtain ⟨c, -, rfl⟩ := Option.map_eq_some_iff.1 hb
      rfl
    · simp only [ne_eq, off, not_false_eq_true, true_and]
      exact hands

/-- A span in millionths of a clock, rounded to one side or the other (log entry 6). -/
theorem roundFree_spec {b : Nat} (a n : Nat) (hb : 0 < b) :
    roundFree a b n * b < a + b ∧ a < (roundFree a b n + 1) * b ∧ (a % b = 0 → roundFree a b n * b = a) := by
  have whole := Nat.div_add_mod' a b
  have rest := Nat.mod_lt a hb
  unfold roundFree
  split
  · rename_i h
    rw [Nat.add_mul]
    omega
  · rename_i h
    cases Config.roundsUp n <;> simp only [bit, Nat.add_mul] <;> simp <;> omega

/-- HEALTH of a step reads of the state before only the level (R129). -/
theorem healthChange_before {s u : State} (t : State) (h : u.hm.degraded = s.hm.degraded) :
    healthChange u t = healthChange s t := by
  unfold healthChange
  rw [h]

theorem State.stopEvents_congr {s t : State} (h : s.sc = t.sc) : s.stopEvents = t.stopEvents := by
  simp only [State.stopEvents, syncEvents, stepDown, roleEvent, trimEvent, h]

theorem TimeSync.LeftBy.congr {y : TimeSync} {s t : State} (h : y.LeftBy s) (hs : s.sc = t.sc) : y.LeftBy t := by
  unfold TimeSync.LeftBy trimAfterLeading at h ⊢
  rwa [hs] at h

/-- The tables that STOP and HALTED leave, with any pending swap performed (R18). -/
def State.halted (s : State) (dev : DevState) (cause : HaltCause) : State :=
  ({ s with dev := dev, haltCause := cause, cycle := none } : State).performed true

/-- STOP, before its own OK (R170): `u` stands where the time base stops. -/
theorem State.stopDevice_spec (s : State) :
    let t := s.stopDevice
    let v := s.halted .config s.haltCause
    let last := v.hm.closing (decide (s.sc.sync = .locked))
    ∃ (u : State) (ps : Vector Pair 4) (os os' : List Output) (y : TimeSync), y.LeftBy s ∧
      u = { v with sc := y, pairs := ps, outputs := os, ew := s.ew.offers s.sc.localTime s.stopEvents } ∧
      t = { u.stopTime with
        hm := State.healthNow { u.stopTime with
          hm := { v.hm with openRecord := none, closed := last.filter fun m => decide (m.inFlight ≠ 0) } },
        ew := u.ew.offers 0 (readyRecords last ++ healthChange s t), outputs := os' } ∧
      Hands s t ((s.pendingCommit.toList.flatMap fun ref => swapCompletions s ref) ++
        (if s.sc.sync ≠ .off ∧ s.sc.hold = true then
          s.sc.resign.toList.map fun ref => ⟨ref, .cancelled, 0⟩ else [])) ∧
      ∀ p : PairId, t.pairs[p].serves = s.pairs[p].serves := by
  intro t v last
  let c : State := { s with dev := .config, cycle := none }
  obtain ⟨⟨ps, os, swapped⟩, swaps, swapServes⟩ := c.swapPending_spec true
  obtain ⟨keeps, monitor⟩ := c.performed_keeps true
  have hsc : (c.swapPending true).sc = s.sc := by rw [swapped, keeps]
  have hdev : (c.swapPending true).dev = .config := by rw [swapped, keeps]
  have hew : (c.swapPending true).ew = s.ew := by rw [swapped, keeps]
  obtain ⟨⟨ps', os', y, left, flushed⟩, leaves, leaveServes⟩ := (c.swapPending true).stop_flush (by rw [hdev]; exact nofun)
  have ends : t = ((((if (c.swapPending true).sc.sync = .off then (c.swapPending true).work
      else (c.swapPending true).work.leaveSync .stopped).flush).on State.stopTime).closeMatrix
        (decide (s.sc.sync = .locked))).finish := by
    rw [hsc]
    rfl
  have both := Hands.trans swaps leaves swapServes
  have serves (p : PairId) := (leaveServes p).trans (swapServes p)
  rw [flushed] at ends both serves
  rw [hew, State.stopEvents_congr hsc, hsc] at ends both serves
  rw [swapped] at ends both serves
  let u : State :=
    { v with sc := y, pairs := ps', outputs := os', ew := s.ew.offers s.sc.localTime s.stopEvents }
  have dev : v.dev = .config := by rw [show v = _ from keeps]
  obtain ⟨os'', closed⟩ := Work.closeMatrix_finish (w := (State.work u).on State.stopTime)
    (show v.dev ≠ .fatal by rw [dev]; exact nofun) rfl rfl (decide (s.sc.sync = .locked))
  have level : v.hm.degraded = s.hm.degraded := (congrArg HealthMonitor.degraded monitor :)
  have same : t = (((State.work u).on State.stopTime).closeMatrix (decide (s.sc.sync = .locked))).finish := ends
  rw [← same, healthChange_before (u := ((State.work u).on State.stopTime).s) t level] at closed
  have pairs : t.pairs = ps' := congrArg State.pairs closed
  refine ⟨u, ps', os', os'', y, left.congr hsc, rfl, closed, ?_, fun p => ?_⟩
  · unfold Hands at both ⊢
    rw [pairs]
    exact both
  · rw [pairs]
    exact serves p

/-! ### Deadlines as the time base stops (R66) -/

theorem State.stopTime_lane (s : State) (l : LaneId) : s.stopTime.lanes[l] = { s.lanes[l] with
    inFlight := (s.lanes[l]).inFlight.map fun (e : Exchange) =>
      { e with deadline := s.sc.convertDeadline s.nominalStu (s.free + l.val) e.deadline } } := by
  simp [State.stopTime]

/-- A deadline in local time is counted on in clocks: 0 where it is reached, else what is left of the STU in progress and
the rest of the span (R66). -/
theorem TimeSync.convertDeadline_atLocal (t : TimeSync) (stu n : Nat) (time : Count32) :
    ∃ k, t.convertDeadline stu n (.atLocal time) = .inClocks k ∧ (time = t.localTime → k = 0) ∧
      (time ≠ t.localTime →
        let exact := t.stuLeft * 1000000 + ((time - t.localTime).toNat - 1) * effectiveMicro stu t.trim
        k * 1000000 < exact + 1000000 ∧ exact < (k + 1) * 1000000 ∧ (exact % 1000000 = 0 → k * 1000000 = exact)) := by
  by_cases h : time = t.localTime
  · exact ⟨0, if_pos h, fun _ => rfl, fun hn => absurd h hn⟩
  · exact ⟨_, if_neg h, fun he => absurd he h, fun _ => roundFree_spec _ n (by omega)⟩

section
variable {r : CommandRecord} {ref : CmdRef} {s : State}

theorem stopOwner_reserved (hz : reservedZero r [] = false) : stopOwner r ref s = s.complete ref .badField 0 := if_pos hz

variable (hz : reservedZero r [] = true)
include hz

theorem stopOwner_wrongState (hd : s.dev = .config) : stopOwner r ref s = s.complete ref .wrongState 0 :=
  (if_neg (by rw [hz]; exact nofun)).trans (if_pos hd)

theorem stopOwner_stops (hd : s.dev ≠ .config) : stopOwner r ref s = s.stopDevice.complete ref .ok 0 :=
  (if_neg (by rw [hz]; exact nofun)).trans (if_neg hd)

end

/-- Settles O59: STOP by its checks, then the controller, the tables, the records and the lanes each in turn. -/
theorem stopReturnsToConfig : Obligations.StopReturnsToConfig := by
  unfold Obligations.StopReturnsToConfig
  intro s h hh h0
  refine ⟨fun hz => .of_admin rfl hh h0 (stopOwner_reserved hz), fun hz =>
    ⟨fun hd => .of_admin rfl hh h0 (stopOwner_wrongState (s := s.taken) hz hd), fun hd => ?_⟩⟩
  have stopped : exec .stop s = .next (s.taken.stopDevice.complete h.ref .ok 0) :=
    exec_admin rfl hh h0 (stopOwner_stops (s := s.taken) hz hd)
  obtain ⟨u, ps, os, os', y, ⟨hy, left⟩, hu, shape, hands, serves⟩ := s.taken.stopDevice_spec
  obtain ⟨ps', os'', completed⟩ := s.taken.stopDevice.complete_shape h.ref .ok 0
  have all := Hands.trans hands (s.taken.stopDevice.complete_Hands h.ref .ok 0) serves
  obtain ⟨t, ht⟩ : ∃ t, t = s.taken.stopDevice.complete h.ref .ok 0 := ⟨_, rfl⟩
  rw [← ht] at stopped completed all
  clear ht
  generalize s.taken.stopDevice = d at shape completed all
  let c : State := { s.taken with dev := .config, cycle := none }
  obtain ⟨keeps, monitor⟩ := c.performed_keeps true
  have ends := completed.trans (congrArg (fun d : State => { d with pairs := ps', outputs := os'' }) shape)
  have clock : t.sc = u.stopTime.sc := (congrArg State.sc ends :)
  have before : u.sc = y := (congrArg State.sc hu :)
  have left_of : u.sc.plan = s.sc.plan ∧ u.sc.trim = s.sc.trim ∧ u.sc.sync = .off ∧ u.sc.localTime = s.sc.localTime ∧
      u.sc.stuLeft = s.sc.stuLeft := by
    rw [before, hy]
    exact ⟨rfl, rfl, rfl, rfl, rfl⟩
  obtain ⟨plan, trim, off, now, stuLeft⟩ := left_of
  have dev : t.dev = .config := (congrArg State.dev ends :).trans ((congrArg State.dev hu :).trans (congrArg State.dev keeps :))
  have cycle : t.cycle = none :=
    (congrArg State.cycle ends :).trans ((congrArg State.cycle hu :).trans (congrArg State.cycle keeps :))
  have rings : t.rings = s.rings :=
    (congrArg State.rings ends :).trans ((congrArg State.rings hu :).trans (congrArg State.rings keeps :))
  have slotQueue : t.slotQueue = s.slotQueue :=
    (congrArg State.slotQueue ends :).trans ((congrArg State.slotQueue hu :).trans (congrArg State.slotQueue keeps :))
  have active : t.active = (c.performed true).active := (congrArg State.active ends :).trans (congrArg State.active hu :)
  have edit : t.edit = (c.performed true).edit := (congrArg State.edit ends :).trans (congrArg State.edit hu :)
  have session : t.session = (c.performed true).session :=
    (congrArg State.session ends :).trans (congrArg State.session hu :)
  have hm : t.hm = State.healthNow { u.stopTime with hm := { (c.performed true).hm with
      openRecord := none,
      closed := ((c.performed true).hm.closing (decide (s.sc.sync = .locked))).filter fun m =>
        decide (m.inFlight ≠ 0) } } := (congrArg State.hm ends :)
  have level : t.healthNow = t.hm := (congrArg State.healthNow ends).trans hm.symm
  have expected : t.hm.expected = (c.performed true).hm.expected :=
    (congrArg (fun v : State => v.hm.expected) ends :)
  have change : healthChange s t = healthChange s d := (congrArg (healthChange s) completed :)
  refine ⟨t, stopped, dev, cycle, (congrArg TimeSync.sync clock).trans off, congrArg TimeSync.localTime clock,
    congrArg TimeSync.cycleTime clock, congrArg TimeSync.cycleCount clock, (congrArg TimeSync.plan clock).trans plan,
    (congrArg TimeSync.trim clock).trans trim, rings, slotQueue, fun on => ?_, ?_, all, fun x hx hc => ?_, fun hc => ?_,
    fun ref p hr hp => ?_, fun hr => ?_, fun l => ?_⟩
  · rw [← before] at left
    rw [clock]
    exact left on
  · intro last
    have closing : last = (c.performed true).hm.closing (decide (s.sc.sync = .locked)) := by
      unfold HealthMonitor.closing
      rw [State.performed_openRecord, ← expected, show (c.performed true).hm.closed = s.hm.closed from
        (congrArg HealthMonitor.closed monitor :)]
      rfl
    have events : t.ew = (s.ew.offers s.sc.localTime s.stopEvents).offers 0 (readyRecords last ++ healthChange s t) := by
      rw [closing, change]
      exact (congrArg State.ew ends).trans (congrArg (fun w : EventWriter => w.offers 0 _) (congrArg State.ew hu))
    have held : t.hm.closed = last.filter fun m => decide (m.inFlight ≠ 0) := by
      rw [closing]
      exact (congrArg HealthMonitor.closed hm :)
    exact ⟨(congrArg HealthMonitor.openRecord hm :), held, level, events⟩
  · obtain ⟨h1, h2, h3⟩ := c.performed_swaps true (by
      show s.session.bind Session.commit ≠ none
      rw [hx]
      exact hc)
    exact ⟨(congrArg (List.map ActiveEntry.entry) active).trans h1, session.trans h2, edit.trans h3⟩
  · have pending : c.pendingCommit = none := by
      show s.session.bind Session.commit = none
      cases hx : s.session with
      | none => rfl
      | some x => exact hc x hx
    obtain ⟨h1, h2, h3, -⟩ := State.performed_NotSwapped (t := t) pending active edit session expected
    exact ⟨congrArg (List.map ActiveEntry.entry) h1, h3, h2⟩
  · exact State.performed_Swapped (s := c) (t := t) hp (by rw [show c.pendingCommit = _ from hr]; exact nofun) active edit
      session expected
  · exact State.performed_NotSwapped (s := c) (t := t) hr active edit session expected
  · have lane : t.lanes[l] = { s.lanes[l] with
        inFlight := (if s.pendingCommit = none then (s.lanes[l]).inFlight
          else (s.lanes[l]).inFlight.map (afterSwap s)).map fun (e : Exchange) =>
            { e with deadline := u.sc.convertDeadline u.nominalStu (u.free + l.val) e.deadline } } := by
      have halts : t.lanes[l] = u.stopTime.lanes[l] :=
        congrArg (fun v : Vector Lane 8 => v[l]) (congrArg State.lanes ends :)
      have swapped : u.lanes[l] = (c.performed true).lanes[l] :=
        congrArg (fun v : Vector Lane 8 => v[l]) (congrArg State.lanes hu :)
      rw [halts, State.stopTime_lane, swapped, State.performed_lane]
      rfl
    have flight (x : Exchange) (hx : (s.lanes[l]).inFlight = some x) :
        (t.lanes[l]).inFlight = some { (if s.pendingCommit = none then x else afterSwap s x) with
          deadline := u.sc.convertDeadline u.nominalStu (u.free + l.val) x.deadline } := by
      rw [lane, hx]
      split <;> rfl
    refine ⟨?_, fun hx => ?_, fun x hx => ⟨fun n hn => ?_, fun time ht => ?_⟩⟩
    · rw [lane]
    · rw [lane, hx]
      split <;> rfl
    · refine (flight x hx).trans (congrArg some ?_)
      obtain ⟨_, _, _, _, _⟩ := x
      cases hn
      split <;> rfl
    · obtain ⟨k, converted, here, there⟩ := u.sc.convertDeadline_atLocal u.nominalStu (u.free + l.val) time
      rw [now] at here
      refine ⟨k, ?_, here, fun p hne hp => ?_⟩
      · rw [← converted, ← ht]
        exact flight x hx
      · have spans := there (by rw [now]; exact hne)
        have nominal : u.nominalStu = p.stu := by
          unfold State.nominalStu
          rw [plan, hp]
          rfl
        rw [nominal, now, stuLeft, trim] at spans
        exact spans

end Sys2Proof.Machine

namespace Sys2Proof.Machine

set_option Elab.async false

/-! ### Entry into HALTED (R171) -/

/-- The controller as a clash leaves it (R104, R117, R121). -/
def State.haltedSync (s : State) (goodRun : Nat) : TimeSync :=
  { s.sc with
    sync := .off, receiving := none,
    sending := s.sc.sending.map fun (b : OwnBeacon) => { b with counts := false },
    role := if s.sc.role = .leader then .backup else s.sc.role, trimState := trimAfterLeading s,
    goodRun := goodRun, hold := false, resign := if s.sc.hold then none else s.sc.resign }

theorem State.trimAfterLeading_congr {s t : State} (h : s.sc = t.sc) : trimAfterLeading s = trimAfterLeading t := by
  unfold trimAfterLeading
  rw [h]

/-- The events of a device that enters HALTED, before the reports (R104, R112, R121, R171). -/
def State.haltEvents (s : State) (cause : HaltCause) : List Event :=
  s.event .halt noSubject (pack [(cause.code, 0)]) :: (syncEvents s s.sc.cycleCount .off 7 ++ stepDown s s.sc.cycleCount 5)

/-- A step that ends as the device enters HALTED: what it leaves, what it posts after `w.others`, what it hands. -/
theorem Work.halt_finish {w : Work} (hh : w.health = []) (cause : HaltCause) :
    let t := (w.halt cause).finish
    let v := w.s.halted .halted cause
    let last := v.hm.closing (decide (w.s.sc.sync = .locked))
    (∃ (u : State) (ps : Vector Pair 4) (os os' : List Output) (n : Nat),
      u = { v with sc := w.s.haltedSync n, pairs := ps, outputs := os } ∧
      t = { u with
        hm := State.healthNow { u with
          hm := { v.hm with openRecord := none, closed := last.filter fun m => decide (m.inFlight ≠ 0) } },
        ew := w.s.ew.offers w.s.sc.localTime
          (w.others ++ w.s.haltEvents cause ++ (readyRecords last ++ healthChange w.s t)),
        outputs := os' }) ∧
    Hands w.s t ((w.s.pendingCommit.toList.flatMap fun ref => swapCompletions w.s ref) ++
      (if w.s.sc.hold then w.s.sc.resign.toList.map fun ref => ⟨ref, .cancelled, 0⟩ else [])) := by
  intro t v last
  let c : State := { w.s with dev := .halted, haltCause := cause, cycle := none }
  obtain ⟨⟨ps, os, swapped⟩, swaps, swapServes⟩ := c.swapPending_spec true
  obtain ⟨keeps, monitor⟩ := c.performed_keeps true
  have hsc : (c.swapPending true).sc = w.s.sc := by rw [swapped, keeps]
  have hdev : (c.swapPending true).dev = .halted := by rw [swapped, keeps]
  have hew : (c.swapPending true).ew = w.s.ew := by rw [swapped, keeps]
  let halt := w.s.event .halt noSubject (pack [(cause.code, 0)])
  let first : Work := { s := c.swapPending true, others := w.others ++ [halt], health := w.health }
  obtain ⟨ps', os', n, flushed, leaves, -⟩ := Work.leaveSync_flush (w := first)
    (show (c.swapPending true).dev ≠ .fatal by rw [hdev]; exact nofun) hh .halted
  have both := Hands.trans swaps leaves swapServes
  have ends : t = ((first.leaveSync .halted).flush.closeMatrix (decide (w.s.sc.sync = .locked))).finish := rfl
  have events : w.others ++ [halt] ++ syncEvents first.s first.s.sc.cycleCount .off SyncCause.halted.code ++
      stepDown first.s first.s.sc.cycleCount 5 = w.others ++ w.s.haltEvents cause := by
    simp only [State.haltEvents, syncEvents, stepDown, roleEvent, trimEvent, show first.s.sc = _ from hsc, halt,
      List.append_assoc, List.cons_append, List.nil_append]
    rfl
  let u : State := { v with sc := w.s.haltedSync n, pairs := ps', outputs := os' }
  let posted : State := { u with ew := w.s.ew.offers w.s.sc.localTime (w.others ++ w.s.haltEvents cause) }
  have at_close : (first.leaveSync .halted).flush = posted.work := by
    rw [flushed, events, show first.s.sc = _ from hsc, show first.s.ew = _ from hew, State.trimAfterLeading_congr hsc,
      show first.s = _ from swapped]
    rfl
  rw [at_close] at ends both
  obtain ⟨os'', closed⟩ := Work.closeMatrix_finish
    (w := posted.work)
    (show v.dev ≠ .fatal by rw [show v = _ from keeps]; exact nofun) rfl rfl (decide (w.s.sc.sync = .locked))
  rw [← ends, healthChange_before (s := w.s) (u := posted.work.s) t (congrArg HealthMonitor.degraded monitor :)] at closed
  have pairs : t.pairs = ps' := congrArg State.pairs closed
  have twice (a b : List Event) (now : Count32) : (w.s.ew.offers now a).offers now b = w.s.ew.offers now (a ++ b) :=
    (List.foldl_append ..).symm
  refine ⟨⟨u, ps', os', os'', n, rfl, closed.trans ?_⟩, ?_⟩
  · rw [← twice]
    rfl
  · unfold Hands at both ⊢
    rw [pairs]
    simp only [show first.s.sc = _ from hsc] at both
    exact both

/-! ### A mismatch read back (R102, R103) -/

section
variable {s : State} {p : Plan} {b : OwnBeacon} {n : Nat}

/-- The machine once the unit has stopped driving its own beacon (R102, R103). -/
def State.undriven (s : State) : State := { s with sc := { s.sc with sending := none } }

theorem State.arbitrationLoss_eq (hp : s.sc.plan = some p) (hb : s.sc.sending = some b) (hs : s.serving = true)
    (hn : n ≤ 15) : s.arbitrationLoss n =
      if (b.counts && s.sc.sync.watches) = false then s.undriven
      else if 11 ≤ n then s.undriven.clash p .rankClash .rankClash n
      else { s with sc := { s.sc with sending := none, receiving := some b.instant } } := by
  unfold State.arbitrationLoss
  rw [hb, hp]
  exact if_pos (by rw [hs]; exact decide_eq_true hn)

theorem State.beaconClash_eq (hp : s.sc.plan = some p) (hb : s.sc.sending = some b) (hs : s.serving = true)
    (hn : 16 ≤ n ∧ n ≤ 60) : s.beaconClash n =
      if (b.counts && s.sc.sync.watches) = false then s.undriven
      else s.undriven.clash p .beaconClash .beaconClash n := by
  unfold State.beaconClash
  rw [hb, hp]
  exact if_pos (by rw [hs]; exact decide_eq_true hn)

end

/-- The field a bit position of a beacon lies in, by its code (section 11.3). -/
theorem beaconFieldCode_eq {n : Nat} (h : 11 ≤ n) : beaconFieldCode n =
    if n ≤ 15 then 3 else if n ≤ 21 then 4 else if n ≤ 24 then 5 else if n = 25 then 6
      else if n ≤ 41 then 7 else if n ≤ 57 then 8 else 9 := by
  simp only [beaconFieldCode, if_neg (show ¬ n ≤ 7 by omega), if_neg (show ¬ n ≤ 10 by omega)]
  split_ifs <;> omega

theorem pack_single (n : Nat) : pack [(n, 0)] = BitVec.ofNat 32 n := by simp [pack]

/-- Settles O45: by the position of the mismatch, and what a halt leaves and posts. -/
theorem readbackMismatchEndsTheBeaconOrHalts : Obligations.ReadbackMismatchEndsTheBeaconOrHalts := by
  unfold Obligations.ReadbackMismatchEndsTheBeaconOrHalts
  intro s p b n hp hb hs quiet field posted halts
  have clashes (c : Instr) (cause : HaltCause) (kind : EventKind) (h11 : 11 ≤ n)
      (hc : exec c s = .next (s.undriven.clash p kind cause n)) : halts c cause kind := by
    obtain ⟨⟨u, ps, os, os', k, hu, shape⟩, hands⟩ := Work.halt_finish
      (w := s.undriven.work.post (s.undriven.event kind noSubject (clashDetail p n))) rfl cause
    let c : State := { s.undriven with dev := .halted, haltCause := cause, cycle := none }
    obtain ⟨keeps, monitor⟩ := c.performed_keeps true
    change exec _ s = .next ((s.undriven.work.post (s.undriven.event kind noSubject (clashDetail p n))).halt cause).finish
      at hc
    generalize ((s.undriven.work.post (s.undriven.event kind noSubject (clashDetail p n))).halt cause).finish = t
      at hc shape hands
    have usc : u.sc = s.undriven.haltedSync k := (congrArg State.sc hu :)
    have kept : u.dev = .halted ∧ u.haltCause = cause ∧ u.cycle = none ∧ u.rings = s.rings := by
      rw [hu]
      show (c.performed true).dev = _ ∧ (c.performed true).haltCause = _ ∧ (c.performed true).cycle = _ ∧
        (c.performed true).rings = _
      rw [keeps]
      exact ⟨rfl, rfl, rfl, rfl⟩
    obtain ⟨dev, haltCause, cycle, rings⟩ := kept
    have tables : t.active = (c.performed true).active ∧ t.edit = (c.performed true).edit ∧
        t.session = (c.performed true).session := by
      rw [shape]
      show u.active = _ ∧ u.edit = _ ∧ u.session = _
      rw [hu]
      exact ⟨rfl, rfl, rfl⟩
    obtain ⟨active, edit, session⟩ := tables
    have hm : t.hm = State.healthNow { u with hm := { (c.performed true).hm with
        openRecord := none,
        closed := ((c.performed true).hm.closing (decide (s.sc.sync = .locked))).filter fun m =>
          decide (m.inFlight ≠ 0) } } := (congrArg State.hm shape :)
    have level : t.healthNow = t.hm := (congrArg State.healthNow shape).trans hm.symm
    have expected : t.hm.expected = (c.performed true).hm.expected :=
      (congrArg (fun v : State => v.hm.expected) shape :)
    have clock : t.sc = s.undriven.haltedSync k := (congrArg State.sc shape).trans usc
    refine ⟨t, hc, (congrArg State.dev shape).trans dev, (congrArg State.haltCause shape).trans haltCause,
      (congrArg State.cycle shape).trans cycle, congrArg TimeSync.sync clock, congrArg TimeSync.sending clock,
      congrArg TimeSync.receiving clock, congrArg TimeSync.hold clock,
      fun hold => (congrArg TimeSync.resign clock).trans (if_pos hold), congrArg TimeSync.role clock,
      (congrArg TimeSync.plan clock).trans hp, (congrArg TimeSync.trim clock :), congrArg TimeSync.trimState clock,
      fun ref hr => ?_, fun hr => ?_, ?_, hands, (congrArg State.rings shape).trans rings⟩
    · exact State.performed_Swapped (s := c) (t := t) hp (by rw [show c.pendingCommit = _ from hr]; exact nofun) active
        edit session expected
    · exact State.performed_NotSwapped (s := c) (t := t) hr active edit session expected
    · intro last
      have closing : last = (c.performed true).hm.closing (decide (s.sc.sync = .locked)) := by
        unfold HealthMonitor.closing
        rw [State.performed_openRecord, ← expected, show (c.performed true).hm.closed = s.hm.closed from
          (congrArg HealthMonitor.closed monitor :)]
        rfl
      have held : t.hm.closed = last.filter fun m => decide (m.inFlight ≠ 0) := by
        rw [closing]
        exact (congrArg HealthMonitor.closed hm :)
      refine ⟨(congrArg HealthMonitor.openRecord hm :), held, level, ?_⟩
      have first : s.undriven.event kind noSubject (clashDetail p n) =
          posted kind (pack [(p.rank, 0), (p.unit, 3), (field, 8), (n, 16)]) := by
        unfold clashDetail
        rw [beaconFieldCode_eq h11]
        rfl
      have second : s.undriven.event .halt noSubject (pack [(cause.code, 0)]) =
          posted .halt (BitVec.ofNat 32 cause.code) := by
        rw [pack_single]
        rfl
      have events : t.ew = s.ew.offers s.sc.localTime
          ([] ++ [s.undriven.event kind noSubject (clashDetail p n)] ++ s.undriven.haltEvents cause ++
            (readyRecords ((c.performed true).hm.closing (decide (s.sc.sync = .locked))) ++
              healthChange s.undriven t)) := (congrArg State.ew shape :)
      rw [healthChange_before t (rfl : s.undriven.hm.degraded = s.hm.degraded), ← closing, State.haltEvents, first, second] at events
      simp only [List.cons_append, List.nil_append, List.append_assoc] at events ⊢
      exact events
  refine ⟨fun h => ?_, fun counts on => ?_⟩
  · have stale : (b.counts && s.sc.sync.watches) = false := by
      obtain h | h := h
      · rw [h]
        rfl
      · rw [h]
        exact Bool.and_false _
    exact ⟨fun hn => congrArg Host.Outcome.next ((State.arbitrationLoss_eq hp hb hs hn).trans (if_pos stale)),
      fun h16 h60 => congrArg Host.Outcome.next ((State.beaconClash_eq hp hb hs ⟨h16, h60⟩).trans (if_pos stale))⟩
  · have live : ¬ (b.counts && s.sc.sync.watches) = false := by
      rw [counts, (SyncState.watches_iff _).2 on]
      exact nofun
    refine ⟨fun hn => ?_, fun h11 h15 => clashes _ _ _ h11 ?_, fun h16 h60 => clashes _ _ _ (by omega) ?_⟩
    · exact congrArg Host.Outcome.next ((State.arbitrationLoss_eq hp hb hs (by omega)).trans
        ((if_neg live).trans (if_neg (by omega))))
    · exact congrArg Host.Outcome.next ((State.arbitrationLoss_eq hp hb hs h15).trans
        ((if_neg live).trans (if_pos h11)))
    · exact congrArg Host.Outcome.next ((State.beaconClash_eq hp hb hs ⟨h16, h60⟩).trans (if_neg live))

end Sys2Proof.Machine

/-! PROOFS. Exchanges that conclude: their judgment, the failure count of their lane, and what each kind completes. -/

namespace Sys2Proof.Machine

set_option Elab.async false

/-! ### Conclusion of an exchange (R66 to R68) -/

theorem State.setLane_self (s : State) (l : LaneId) : s.setLane l s.lanes[l] = s := by
  unfold State.setLane
  rw [show s.lanes.set l s.lanes[l] = s.lanes from Vector.set_getElem_self _]

theorem State.setReceiver_self {s : State} {l : LaneId} {r : Receiver} (h : s.lanes[l].receiver = r) :
    s.setReceiver l r = s := by
  subst h
  exact s.setLane_self l

/-- An event that concludes an exchange: the receiver moves on, and the exchange is judged (R67, R68). -/
theorem Concludes.exec {c : Instr} {s : State} {l : LaneId} {x : Exchange} {j : Verdict} {words : List StationWord}
    (h : Concludes c s l x j words) :
    exec c s = .next ((s.setReceiver l (receiverAfter c s l)).work.conclude l j words).finish := by
  obtain ⟨hs, hx, hn, h⟩ := h
  have awaits : s.lanes[l].awaitsReply = true := by rw [Lane.awaitsReply_of hx, hn]; rfl
  obtain ⟨cells, bits, rfl, hb, hr, rfl, rfl⟩ | ⟨rfl, hd, rfl, rfl⟩ | ⟨cells, rfl, hb, hr, rfl, rfl⟩ := h
  · have judged : s.lanes[l].judge bits = judgeReply x.sequence x.inCount bits := by
      unfold Lane.judge
      rw [hx]
    have after : receiverAfter (.replyComplete l cells) s l = .idle := if_neg nofun
    rw [after]
    refine congrArg Host.Outcome.next ?_
    unfold State.replyComplete
    rw [hb, ← judged]
    exact if_pos (by rw [hs, hr, awaits]; rfl)
  · have after : receiverAfter (.exchangeDeadline l) s l =
        if s.lanes[l].receiver = .reply then .cutOff else s.lanes[l].receiver := if_pos rfl
    have due : s.deadlineDue l = true := by
      unfold State.deadlineDue
      rw [hx]
      simp [hs, hn, hd]
    rw [after]
    refine congrArg Host.Outcome.next ((if_pos due).trans ?_)
    split
    · rfl
    · rw [State.setReceiver_self rfl]
  · have after : receiverAfter (.lineIdleTimeout l cells) s l = .idle := if_neg nofun
    rw [after]
    refine congrArg Host.Outcome.next ?_
    unfold State.lineIdleTimeout
    rw [if_neg (by simp [hs, hb]), hr]
    exact if_pos awaits

/-! ### The failure count (R70, R71) -/

theorem Verdict.isMiss_iff {j : Verdict} : j.isMiss = true ↔ j = .noReply ∨ j = .badCheck ∨ j = .badReply := by
  cases j <;> simp [Verdict.isMiss]

/-- Short of the sixth failure in a row, the count of the lane follows the judgment (R70). -/
theorem Work.countFailure_counts {w : Work} {l : LaneId} {j : Verdict}
    (h : w.s.lanes[l].state = .ready → j = .noReply ∨ j = .badCheck ∨ j = .badReply → w.s.lanes[l].failures ≤ 4) :
    w.countFailure l j =
      w.on fun s => s.setLane l { s.lanes[l] with failures := failuresAfter w.s.lanes[l] j } := by
  unfold Work.countFailure failuresAfter
  by_cases hr : w.s.lanes[l].state = .ready
  · rw [if_neg (not_not.2 hr), if_neg (not_not.2 hr)]
    by_cases hj : j = .noReply ∨ j = .badCheck ∨ j = .badReply
    · have few : w.s.lanes[l].failures + 1 < Config.failureLimit := by
        have := h hr hj
        show _ < 6
        omega
      simp only [Verdict.isMiss_iff.2 hj, if_pos hj, if_pos few, Bool.true_eq_false, if_false]
      rfl
    · have hit : j.isMiss = false := Bool.eq_false_iff.2 fun hm => hj (Verdict.isMiss_iff.1 hm)
      rw [if_pos hit, if_neg hj]
  · rw [if_pos hr, if_pos hr]
    exact (congrArg (fun s => ({ w with s := s } : Work)) (w.s.setLane_self l)).symm

/-- The sixth failure in a row faults the lane (R71). -/
theorem Work.countFailure_faults {w : Work} {l : LaneId} {j : Verdict} (hr : w.s.lanes[l].state = .ready)
    (hj : j = .noReply ∨ j = .badCheck ∨ j = .badReply) (hf : w.s.lanes[l].failures = 5) :
    w.countFailure l j =
      (w.on fun s => s.setLane l { s.lanes[l] with failures := 6 }).fault l .failures := by
  unfold Work.countFailure
  rw [if_neg (not_not.2 hr), if_neg (by rw [Verdict.isMiss_iff.2 hj]; exact nofun), hf]
  refine (if_neg (Nat.lt_irrefl 6)).trans ?_
  have count : (w.on fun s => s.setLane l { s.lanes[l] with failures := s.lanes[l].failures + 1 }) =
      w.on fun s => s.setLane l { s.lanes[l] with failures := 6 } := by
    dsimp only [Work.on]
    rw [hf]
  rw [count]

/-! ### Host exchanges (R79, R80) -/

/-- The result of a host exchange: judgment and sequence number (section 11.2). -/
theorem exchangeResult_eq (j : Verdict) (sequence : Byte) :
    exchangeResult j sequence = BitVec.ofNat 32 (j.code + 256 * sequence.toNat) := by
  simp [exchangeResult, pack, Nat.mul_comm]

/-- What the conclusion of a host exchange does beside its lane (R79, R80). -/
def State.hostConcluded (s : State) (x : Exchange) (e : HostExchange) (j : Verdict) (words : List StationWord) : State :=
  if j ≠ .done then s.complete e.ref .exchangeFailed (exchangeResult j x.sequence)
  else if e.kind.receives && s.pairs[e.ref.pair].serves then
    { s with
      buffers := s.buffers ++ [{ ref := e.ref, result := exchangeResult j x.sequence, report := false }],
      outputs := .dmaWrite e.address (wordsBytes words) :: s.outputs }
  else s.complete e.ref .ok (exchangeResult j x.sequence)

theorem State.concludeHost_eq (s : State) (l : LaneId) (y : Lane) (x : Exchange) (e : HostExchange) (j : Verdict)
    (words : List StationWord) :
    (s.setLane l y).concludeHost l x e j words = (s.hostConcluded x e j words).setLane l { y with inFlight := none } := by
  have leaves : (s.setLane l y).leaveLane l = s.setLane l { y with inFlight := none } := by
    unfold State.leaveLane
    rw [State.setLane_setLane, State.setLane_here]
  unfold State.concludeHost State.hostConcluded
  rw [leaves]
  dsimp only
  rw [State.complete_setLane, State.complete_setLane, State.setLane_pairs]
  split
  · rfl
  · split <;> rfl

section
variable {s : State} {x : Exchange} {e : HostExchange} {j : Verdict} {words : List StationWord}

theorem State.hostConcluded_failed (hj : j ≠ .done) : s.hostConcluded x e j words =
    s.complete e.ref .exchangeFailed (BitVec.ofNat 32 (j.code + 256 * x.sequence.toNat)) := by
  rw [← exchangeResult_eq]
  exact if_pos hj

theorem State.hostConcluded_words (hj : j = .done) (hk : e.kind.receives = true) (hs : s.pairs[e.ref.pair].serves = true) :
    s.hostConcluded x e j words = { s with
      buffers := s.buffers ++ [{ ref := e.ref, result := BitVec.ofNat 32 (j.code + 256 * x.sequence.toNat), report := false }],
      outputs := .dmaWrite e.address (wordsBytes words) :: s.outputs } := by
  rw [← exchangeResult_eq]
  exact (if_neg (not_not.2 hj)).trans (if_pos (by rw [hk, hs]; rfl))

theorem State.hostConcluded_done (hj : j = .done) (hk : e.kind.receives = false ∨ s.pairs[e.ref.pair].serves = false) :
    s.hostConcluded x e j words = s.complete e.ref .ok (BitVec.ofNat 32 (j.code + 256 * x.sequence.toNat)) := by
  rw [← exchangeResult_eq]
  refine (if_neg (not_not.2 hj)).trans (if_neg ?_)
  rw [Bool.and_eq_true]
  rintro ⟨h1, h2⟩
  obtain hk | hk := hk
  · exact absurd (h1.symm.trans hk) nofun
  · exact absurd (h2.symm.trans hk) nofun

theorem State.hostConcluded_other {p : PairId} (hp : p ≠ e.ref.pair) :
    (s.hostConcluded x e j words).pairs[p] = s.pairs[p] := by
  unfold State.hostConcluded
  split
  · exact s.complete_other _ _ hp
  · split
    · rfl
    · exact s.complete_other _ _ hp

/-- For a pair that serves no more the command is retired (R80, R146). -/
theorem State.hostConcluded_retired (hs : s.pairs[e.ref.pair].serves = false) :
    s.hostConcluded x e j words = s.retire e.ref.pair 1 := by
  by_cases hj : j = .done
  · rw [State.hostConcluded_done hj (.inr hs), State.complete_retired s e.ref _ _ hs]
  · rw [State.hostConcluded_failed hj, State.complete_retired s e.ref _ _ hs]

end

theorem State.hostConcluded_shape (s : State) (x : Exchange) (e : HostExchange) (j : Verdict) (words : List StationWord) :
    ∃ ps os bs, s.hostConcluded x e j words = { s with pairs := ps, outputs := os, buffers := bs } := by
  unfold State.hostConcluded
  split
  · obtain ⟨ps, os, h⟩ := s.complete_shape e.ref .exchangeFailed (exchangeResult j x.sequence)
    exact ⟨ps, os, s.buffers, h⟩
  · split
    · exact ⟨_, _, _, rfl⟩
    · obtain ⟨ps, os, h⟩ := s.complete_shape e.ref .ok (exchangeResult j x.sequence)
      exact ⟨ps, os, s.buffers, h⟩

/-- The lane once its exchange has left it (R66). -/
def State.laneLeft (s : State) (c : Instr) (l : LaneId) : Lane :=
  { s.lanes[l] with inFlight := none, receiver := receiverAfter c s l }

section
variable {w : Work} {l : LaneId} {x : Exchange} {j : Verdict} {words : List StationWord}
  (hx : w.s.lanes[l].inFlight = some x)
include hx

theorem Work.conclude_of_host {e : HostExchange} (hsrc : x.source = .host e) :
    w.conclude l j words = (w.on fun s => s.concludeHost l x e j words).countFailure l j := by
  unfold Work.conclude
  rw [hx]
  dsimp only
  rw [hsrc]

theorem Work.conclude_of_scheduled {f : Firing} (hsrc : x.source = .scheduled f) :
    w.conclude l j words = (w.concludeScheduled l x f j words).countFailure l j := by
  unfold Work.conclude
  rw [hx]
  dsimp only
  rw [hsrc]

theorem Work.conclude_of_probe {current : Bool} (hsrc : x.source = .probe current) :
    w.conclude l j words =
      if current then (w.on fun s => s.leaveLane l).concludeProbe l j else w.on fun s => s.leaveLane l := by
  unfold Work.conclude
  rw [hx]
  dsimp only
  rw [hsrc]

end

/-- A receiver that moves on leaves the exchange in flight. -/
theorem State.setReceiver_flight (s : State) (l : LaneId) (r : Receiver) :
    (s.setReceiver l r).lanes[l].inFlight = s.lanes[l].inFlight := by
  unfold State.setReceiver
  rw [State.setLane_here]

/-- A host exchange that has concluded, before the failure count. -/
theorem Work.conclude_host {c : Instr} {s : State} {l : LaneId} {x : Exchange} {e : HostExchange} (j : Verdict)
    (words : List StationWord) (hx : s.lanes[l].inFlight = some x) (hsrc : x.source = .host e) :
    (s.setReceiver l (receiverAfter c s l)).work.conclude l j words =
      Work.countFailure ((s.hostConcluded x e j words).setLane l (s.laneLeft c l)).work l j := by
  rw [Work.conclude_of_host (w := (s.setReceiver l (receiverAfter c s l)).work)
    ((s.setReceiver_flight l _).trans hx) hsrc]
  have host : (s.setReceiver l (receiverAfter c s l)).concludeHost l x e j words = _ :=
    State.concludeHost_eq s l { s.lanes[l] with receiver := receiverAfter c s l } x e j words
  exact congrArg (fun t => Work.countFailure (State.work t) l j) host

theorem wordsBytes_eq (words : List StationWord) : wordsBytes words = words.flatMap fun w => leBytes 2 w.toNat := rfl

/-- Settles O31: the lane by its failure count, and the command by its judgment and the state of its pair. -/
theorem hostExchangeCompletesItsCommand : Obligations.HostExchangeCompletesItsCommand := by
  unfold Obligations.HostExchangeCompletesItsCommand
  intro c s l x e j words h hsrc few result sends
  let u := s.hostConcluded x e j words
  let y : Lane := { s.lanes[l] with
    inFlight := none, receiver := receiverAfter c s l, failures := failuresAfter s.lanes[l] j }
  have concluded : exec c s = .next (u.setLane l y) := by
    rw [h.exec, Work.conclude_host j words h.2.1 hsrc,
      Work.countFailure_counts (w := (u.setLane l (s.laneLeft c l)).work) (by
        show (u.setLane l (s.laneLeft c l)).lanes[l].state = .ready → _ →
          (u.setLane l (s.laneLeft c l)).lanes[l].failures ≤ 4
        rw [State.setLane_here]
        exact few)]
    refine congrArg Host.Outcome.next ((State.postAll_nil _).trans ?_)
    show ((u.setLane l (s.laneLeft c l)).setLane l { (u.setLane l (s.laneLeft c l)).lanes[l] with
      failures := failuresAfter (u.setLane l (s.laneLeft c l)).lanes[l] j }) = _
    rw [State.setLane_setLane, State.setLane_here]
    rfl
  obtain ⟨ps, os, bs, shape⟩ := s.hostConcluded_shape x e j words
  change u = _ at shape
  have lanes : u.lanes = s.lanes := (congrArg State.lanes shape :)
  refine ⟨_, concluded, State.setLane_here .., fun m hm => (State.setLane_other _ _ _ _ hm).trans ?_, ?_⟩
  · rw [lanes]
  refine ⟨(congrArg State.active shape :), (congrArg State.rings shape :), (congrArg State.hm shape :), (congrArg State.ew shape :),
    (congrArg State.sc shape :), fun p hp => ?_, fun hs => ⟨fun hj => ?_, fun hj hk => ?_, fun hj hk => ?_⟩, fun hs => ?_⟩
  · exact State.hostConcluded_other hp
  · obtain ⟨-, -, -, -, sent, rest⟩ := s.complete_Handed hs .exchangeFailed result
    rw [show u = _ from State.hostConcluded_failed hj]
    exact ⟨(congrArg State.buffers rest :), s.complete_Hands e.ref .exchangeFailed result, sent⟩
  · obtain ⟨-, -, -, -, sent, rest⟩ := s.complete_Handed hs .ok result
    have sends : e.kind.receives = false := by
      obtain hk | hk := hk <;> rw [hk] <;> rfl
    rw [show u = _ from State.hostConcluded_done hj (.inl sends)]
    exact ⟨(congrArg State.buffers rest :), s.complete_Hands e.ref .ok result, sent⟩
  · rw [show u = _ from State.hostConcluded_words hj (Kind.receives_iff.2 hk) hs]
    exact ⟨rfl, rfl, rfl⟩
  · rw [show u = _ from State.hostConcluded_retired hs]
    refine ⟨rfl, rfl, ?_⟩
    show (s.setPair e.ref.pair (s.pairs[e.ref.pair].retired 1)).pairs[e.ref.pair] = _
    rw [State.setPair_at, if_pos rfl]
    rfl

end Sys2Proof.Machine

namespace Sys2Proof.Machine

set_option Elab.async false

/-! ### What the level is read from (R128) -/

/-- The level depends on the active table, the controller and the states of the lanes alone. -/
theorem State.healthNow_congr {s t : State} (hm : s.hm = t.hm) (ha : s.active = t.active) (hs : s.sc = t.sc)
    (hl : ∀ m : LaneId, s.lanes[m].state = t.lanes[m].state) : s.healthNow = t.healthNow := by
  have down : s.laneIsDown = t.laneIsDown := by
    simp only [State.laneIsDown, ha, hs, hl]
  have weak : s.weakCount = t.weakCount := congrArg (List.countP ActiveEntry.isWeak) ha
  have disabled : s.disabledCount = t.disabledCount := by
    unfold State.disabledCount
    rw [ha]
  unfold State.healthNow
  rw [hm, hs, weak, disabled, down]

/-- A lane that keeps its state keeps the level. -/
theorem State.healthNow_setLane (s : State) {l : LaneId} {x : Lane} (h : x.state = s.lanes[l].state) :
    (s.setLane l x).healthNow = s.healthNow := by
  refine State.healthNow_congr rfl rfl rfl fun m => ?_
  rw [State.setLane_at]
  split
  · rename_i hm
    rw [hm, h]
  · rfl

/-! ### A waiting TRAIN LANE (R73, R74) -/

theorem State.completeTrain_spec (s : State) (l : LaneId) (status : Status) :
    (∃ ps os, s.completeTrain l status =
      { s.setLane l { s.lanes[l] with waitingTrain := none } with pairs := ps, outputs := os }) ∧
    Hands s (s.completeTrain l status) (s.lanes[l].waitingTrain.toList.map fun ref => ⟨ref, status, 0⟩) ∧
    ∀ p : PairId, (s.completeTrain l status).pairs[p].serves = s.pairs[p].serves := by
  unfold State.completeTrain
  cases h : s.lanes[l].waitingTrain with
  | none =>
    refine ⟨⟨s.pairs, s.outputs, ?_⟩, .refl rfl, fun _ => rfl⟩
    have kept : { s.lanes[l] with waitingTrain := none } = s.lanes[l] := by rw [← h]
    rw [kept, s.setLane_self l]
  | some ref =>
    let u := s.setLane l { s.lanes[l] with waitingTrain := none }
    obtain ⟨ps, os, shape⟩ := u.complete_shape ref status 0
    exact ⟨⟨ps, os, shape⟩, u.complete_Hands ref status 0, u.complete_keeps_serves ref status 0⟩

/-- Completing a TRAIN LANE and a new level do not meet. -/
theorem State.completeTrain_hm (s : State) (m : HealthMonitor) (l : LaneId) (status : Status) :
    ({ s with hm := m } : State).completeTrain l status = { s.completeTrain l status with hm := m } := by
  unfold State.completeTrain
  cases s.lanes[l].waitingTrain with
  | none => rfl
  | some ref =>
    dsimp only
    unfold State.complete
    rw [State.setLane_pairs, State.setLane_pairs]
    split <;> rfl

/-- A TRAIN LANE completed after an evaluation of the level may as well be completed before it. -/
theorem Work.evaluate_completeTrain (w : Work) (l : LaneId) (status : Status) :
    (w.evaluate.on fun s => s.completeTrain l status) = (w.on fun s => s.completeTrain l status).evaluate := by
  obtain ⟨⟨ps, os, shape⟩, -⟩ := w.s.completeTrain_spec l status
  have hm : (w.s.completeTrain l status).hm = w.s.hm := (congrArg State.hm shape :)
  have active : (w.s.completeTrain l status).active = w.s.active := (congrArg State.active shape :)
  have sc : (w.s.completeTrain l status).sc = w.s.sc := (congrArg State.sc shape :)
  have lanes : (w.s.completeTrain l status).lanes =
      (w.s.setLane l { w.s.lanes[l] with waitingTrain := none }).lanes := (congrArg State.lanes shape :)
  have level : (w.s.completeTrain l status).healthNow = w.s.healthNow := by
    refine State.healthNow_congr hm active sc fun m => ?_
    rw [lanes, State.setLane_at]
    split
    · rename_i h
      rw [h]
    · rfl
  have change : healthChange w.s { w.s with hm := w.s.healthNow } =
      healthChange (w.s.completeTrain l status) { w.s.completeTrain l status with hm := w.s.healthNow } := by
    rw [healthChange_before _ (congrArg HealthMonitor.degraded hm)]
    refine healthChange_congr _ ⟨rfl, rfl, rfl, rfl, rfl⟩ ⟨?_, ?_⟩ sc.symm
    · exact (congrArg (List.countP ActiveEntry.isWeak) active).symm
    · unfold State.disabledCount
      rw [active]
  have state : ({ w.s with hm := w.s.healthNow } : State).completeTrain l status =
      { w.s.completeTrain l status with hm := w.s.healthNow } := State.completeTrain_hm ..
  rw [Work.evaluate_spec, Work.evaluate_spec, change]
  unfold Work.on
  dsimp only
  rw [state, level]

/-! ### A lane that has moved (R58, R71) -/

/-- From `s` to `t` lane `l` has become `z`; beside it a step of the lane changes the level, the events, the completions,
the outputs and the free values alone. -/
def LaneMoved (s t : State) (l : LaneId) (z : Lane) : Prop :=
  t = { s.setLane l z with hm := t.hm, ew := t.ew, pairs := t.pairs, outputs := t.outputs, free := t.free }

section
variable {s t : State} {l : LaneId} {z : Lane} (h : LaneMoved s t l z)
include h

theorem LaneMoved.lane : t.lanes[l] = z := by
  rw [show t.lanes = (s.setLane l z).lanes from (congrArg State.lanes h :)]
  exact State.setLane_here ..

theorem LaneMoved.others : OtherLanesKept s t l := fun m hm => by
  rw [show t.lanes = (s.setLane l z).lanes from (congrArg State.lanes h :)]
  exact State.setLane_other _ _ _ _ hm

theorem LaneMoved.keeps : t.active = s.active ∧ t.rings = s.rings ∧ t.sc = s.sc ∧ t.dev = s.dev ∧
    t.slotQueue = s.slotQueue ∧ t.buffers = s.buffers :=
  ⟨(congrArg State.active h :), (congrArg State.rings h :), (congrArg State.sc h :), (congrArg State.dev h :),
    (congrArg State.slotQueue h :), (congrArg State.buffers h :)⟩

end

/-- What a step has done to the lane before counts for nothing. -/
theorem LaneMoved.of_before {s u t : State} {l : LaneId} {y z : Lane} {ps : Vector Pair 4} {os : List Output}
    (h : LaneMoved u t l z) (hu : u = { s.setLane l y with pairs := ps, outputs := os }) : LaneMoved s t l z := by
  subst hu
  unfold LaneMoved at h ⊢
  have flat : (s.setLane l y).setLane l z = s.setLane l z := State.setLane_setLane ..
  rw [h, ← flat]
  rfl

theorem Lane.waitingRefs_completions (x : Lane) (status : Status) :
    (x.waitingRefs.map fun ref => (⟨ref, status, 0⟩ : Completion)) = x.queue.map fun q => ⟨q.exchange.ref, status, 0⟩ := by
  unfold Lane.waitingRefs
  rw [List.map_map]
  rfl

/-- A step that ends as a lane enters FAULTED: what it posts, the level, what it hands, and the lane (R71). -/
theorem Work.fault_finish {s : State} {w : Work} (l : LaneId) (cause : LaneCause)
    (hd : w.s.dev ≠ .fatal) (hh : w.health = []) (he : w.s.ew = s.ew) (hsc : w.s.sc = s.sc) (hm : w.s.hm = s.hm)
    (hl : w.s.lanes[l].state = s.lanes[l].state) :
    let t := (w.fault l cause).finish
    Posts s t (w.others ++ [laneStateEvent s l .faulted cause.code]) (healthChange s t) ∧ Evaluated s t ∧
      Hands w.s t (w.s.lanes[l].queue.map fun q => ⟨q.exchange.ref, .laneNotReady, 0⟩) ∧
      LaneMoved w.s t l w.s.lanes[l].fault := by
  intro t
  let u : Work := w.on fun s => s.completeAll s.lanes[l].waitingRefs .laneNotReady 0
  obtain ⟨ps, os, shape⟩ := State.completeAll_shape w.s.lanes[l].waitingRefs .laneNotReady 0 w.s
  change u.s = _ at shape
  obtain ⟨hands, -⟩ := State.completeAll_Hands w.s.lanes[l].waitingRefs .laneNotReady 0 w.s
  obtain ⟨posts, level, -, m, e, os', n, moved⟩ := Work.laneChange_finish (s := s) (w := u) l w.s.lanes[l].fault cause
    (by rw [shape]; exact hd) hh (by rw [shape]; exact he) (by rw [shape]; exact hsc) (by rw [shape]; exact hm)
    (by rw [shape]; exact hl)
  change t = _ at moved
  have pairs : t.pairs = u.s.pairs := (congrArg State.pairs moved :)
  refine ⟨posts, level, ?_, ?_⟩
  · rw [← Lane.waitingRefs_completions]
    unfold Hands at hands ⊢
    rw [pairs]
    exact hands
  · unfold LaneMoved
    rw [moved, shape]
    rfl

/-! ### Training probes (R73, R74) -/

/-- A run of good probes after the judgment of one more (R73). -/
def Lane.goodAfter (x : Lane) (j : Verdict) : Nat := if j = .done then x.goodRun + 1 else 0

section
variable {s : State} {l : LaneId} {y : Lane} {j : Verdict}

/-- A probe that neither trains nor ends the run (R73). -/
theorem Work.concludeProbe_goes_on (h4 : y.goodAfter j ≠ 4) (h64 : y.probesSent ≠ 64) :
    (s.setLane l y).work.concludeProbe l j = (s.setLane l { y with goodRun := y.goodAfter j }).work := by
  have here : (s.setLane l y).work.s.lanes[l] = y := State.setLane_here ..
  unfold Work.concludeProbe
  rw [here]
  refine (if_neg h4).trans ((if_neg h64).trans ?_)
  show State.work ((s.setLane l y).setLane l { (s.setLane l y).lanes[l] with goodRun := y.goodAfter j }) = _
  rw [State.setLane_setLane, State.setLane_here]

/-- The fourth good probe in a row trains the lane (R73). -/
theorem Work.concludeProbe_trains (h4 : y.goodAfter j = 4) :
    (s.setLane l y).work.concludeProbe l j =
      ((s.setLane l { y with goodRun := 4 }).work.laneChange l { y with goodRun := 4, state := .ready } .trained).on
        fun s => s.completeTrain l .ok := by
  have here : (s.setLane l y).work.s.lanes[l] = y := State.setLane_here ..
  have counted : ((s.setLane l y).work.on fun s => s.setLane l { s.lanes[l] with goodRun := 4 }) =
      (s.setLane l { y with goodRun := 4 }).work := by
    show State.work ((s.setLane l y).setLane l { (s.setLane l y).lanes[l] with goodRun := 4 }) = _
    rw [State.setLane_setLane, State.setLane_here]
  unfold Work.concludeProbe
  rw [here]
  refine (if_pos h4).trans ?_
  rw [show (if j = .done then y.goodRun + 1 else 0) = 4 from h4, counted]
  have there : (s.setLane l { y with goodRun := 4 }).work.s.lanes[l] = { y with goodRun := 4 } := State.setLane_here ..
  rw [there]

/-- The last probe of a run without four good ones in a row faults the lane (R73). -/
theorem Work.concludeProbe_faults (h4 : y.goodAfter j ≠ 4) (h64 : y.probesSent = 64) :
    (s.setLane l y).work.concludeProbe l j =
      ((s.setLane l { y with goodRun := y.goodAfter j }).work.on fun s => s.completeTrain l .laneTrainFailed).fault l
        .trainingFailed := by
  have here : (s.setLane l y).work.s.lanes[l] = y := State.setLane_here ..
  have counted : ((s.setLane l y).work.on fun s => s.setLane l { s.lanes[l] with goodRun := y.goodAfter j }) =
      (s.setLane l { y with goodRun := y.goodAfter j }).work := by
    show State.work ((s.setLane l y).setLane l { (s.setLane l y).lanes[l] with goodRun := y.goodAfter j }) = _
    rw [State.setLane_setLane, State.setLane_here]
  unfold Work.concludeProbe
  rw [here]
  refine (if_neg h4).trans ((if_pos h64).trans ?_)
  rw [show (if j = .done then y.goodRun + 1 else 0) = y.goodAfter j from rfl, counted]

/-- A lane trained: what is posted, the level, what is handed, and the lane (R73, R82). -/
theorem Work.trained_finish {s : State} {l : LaneId} {y : Lane} (hd : s.dev ≠ .fatal)
    (hy : y.state = s.lanes[l].state) :
    let t := (((s.setLane l y).work.laneChange l { y with state := .ready } .trained).on
      fun s => s.completeTrain l .ok).finish
    Posts s t [laneStateEvent s l .ready 3] (healthChange s t) ∧ Evaluated s t ∧
      Hands s t (y.waitingTrain.toList.map fun ref => ⟨ref, .ok, 0⟩) ∧
      LaneMoved s t l { y with state := .ready, waitingTrain := none } := by
  intro t
  let u := (s.setLane l y).setLane l { y with state := .ready }
  have here : u.lanes[l] = { y with state := .ready } := State.setLane_here ..
  obtain ⟨⟨ps, os, shape⟩, hands, -⟩ := u.completeTrain_spec l .ok
  rw [here] at shape hands
  let w : Work := { s := u.completeTrain l .ok, others := [laneStateEvent s l .ready 3], health := [] }
  have event : (s.setLane l y).event .laneState (BitVec.ofNat 16 l.val)
      (pack [(LaneState.ready.code, 0), ((s.setLane l y).lanes[l].state.code, 8), (LaneCause.trained.code, 16)]) =
        laneStateEvent s l .ready 3 := by
    rw [State.setLane_here, hy]
    rfl
  have ends : t = w.evaluate.finish := by
    refine congrArg Work.finish ((Work.evaluate_completeTrain _ l .ok).trans (congrArg Work.evaluate ?_))
    exact congrArg (fun e => Work.mk (u.completeTrain l .ok) [e] []) event
  obtain ⟨-, posts, e, os', n, moved⟩ := Work.evaluate_finish (s := s) (w := w)
    (by rw [show w.s = _ from shape]; exact hd) rfl (by rw [show w.s = _ from shape]; rfl)
    (by rw [show w.s = _ from shape]; rfl) (by rw [show w.s = _ from shape]; rfl)
  have evaluated := Work.evaluate_Evaluated s w (by rw [show w.s = _ from shape]; rfl)
  rw [← ends] at posts evaluated moved
  refine ⟨posts, evaluated, ?_, ?_⟩
  · have pairs : t.pairs = (u.completeTrain l .ok).pairs := (congrArg State.pairs moved :)
    unfold Hands at hands ⊢
    rw [pairs]
    exact hands
  · unfold LaneMoved
    rw [moved, show w.s = _ from shape, State.setLane_setLane, State.setLane_setLane]

end

/-- A probe that has concluded has left its lane. -/
theorem State.probe_left (c : Instr) (s : State) (l : LaneId) :
    (s.setReceiver l (receiverAfter c s l)).leaveLane l = s.setLane l (s.laneLeft c l) := by
  unfold State.leaveLane State.setReceiver
  rw [State.setLane_setLane, State.setLane_here]
  rfl

theorem Concludes.receiver_done {c : Instr} {s : State} {l : LaneId} {x : Exchange} {words : List StationWord}
    (h : Concludes c s l x .done words) : receiverAfter c s l = .idle := by
  obtain ⟨-, -, -, ⟨cells, bits, rfl, -⟩ | ⟨-, -, hn, -⟩ | ⟨cells, rfl, -⟩⟩ := h
  · exact if_neg nofun
  · nomatch hn
  · exact if_neg nofun

/-- Settles O32: the present run by its four outcomes, and the abandoned run. -/
theorem probesBringTheLaneToReadyOrFaulted : Obligations.ProbesBringTheLaneToReadyOrFaulted := by
  unfold Obligations.ProbesBringTheLaneToReadyOrFaulted
  refine ⟨fun c s l x j words h hsrc htrain => ?_, fun c s l x j words h hsrc => ?_⟩
  · let y := s.laneLeft c l
    let t := ((s.setLane l y).work.concludeProbe l j).finish
    have concluded : exec c s = .next t := by
      rw [h.exec, Work.conclude_of_probe (w := (s.setReceiver l (receiverAfter c s l)).work)
        ((s.setReceiver_flight l _).trans h.2.1) hsrc]
      exact congrArg (fun u => Host.Outcome.next ((State.work u).concludeProbe l j).finish) (State.probe_left c s l)
    have alive : s.dev ≠ .fatal := State.serving_not_fatal h.1
    by_cases h4 : y.goodAfter j = 4
    · have hj : j = .done := by
        by_contra hn
        rw [Lane.goodAfter, if_neg hn] at h4
        nomatch h4
      subst hj
      have three : s.lanes[l].goodRun = 3 := by
        rw [Lane.goodAfter, if_pos rfl] at h4
        exact Nat.succ.inj h4
      have ends : t = _ := congrArg Work.finish (Work.concludeProbe_trains (s := s) (l := l) h4)
      obtain ⟨posts, level, hands, moved⟩ := Work.trained_finish (s := s) (l := l) (y := { y with goodRun := 4 }) alive rfl
      rw [← ends] at posts level hands moved
      obtain ⟨active, rings, sc, -⟩ := moved.keeps
      refine ⟨t, concluded, (congrArg Lane.inFlight moved.lane :), moved.others, active, rings, sc, fun _ _ => ?_, fun _ h3 => ?_,
        fun hn => absurd rfl hn, fun hn => ?_⟩
      · rw [moved.lane]
        exact ⟨rfl, rfl, rfl, rfl, h.receiver_done, hands, posts, level⟩
      · omega
      · obtain hn | hn := hn
        · exact absurd rfl hn
        · omega
    · by_cases h64 : y.probesSent = 64
      · let u := s.setLane l { y with goodRun := y.goodAfter j }
        have here : u.lanes[l] = { y with goodRun := y.goodAfter j } := State.setLane_here ..
        obtain ⟨⟨ps, os, shape⟩, trains, serves⟩ := u.completeTrain_spec l .laneTrainFailed
        rw [here] at shape trains
        have last : (u.completeTrain l .laneTrainFailed).lanes[l] =
            { y with goodRun := y.goodAfter j, waitingTrain := none } := by
          rw [shape]
          exact State.setLane_here ..
        have ends : t = _ := congrArg Work.finish (Work.concludeProbe_faults (s := s) (l := l) h4 h64)
        obtain ⟨posts, level, refuses, moved⟩ := Work.fault_finish (s := s)
          (w := u.work.on fun s => s.completeTrain l .laneTrainFailed) l .trainingFailed
          (show (u.completeTrain l .laneTrainFailed).dev ≠ .fatal by rw [shape]; exact alive) rfl
          (show (u.completeTrain l .laneTrainFailed).ew = s.ew by rw [shape]; rfl)
          (show (u.completeTrain l .laneTrainFailed).sc = s.sc by rw [shape]; rfl)
          (show (u.completeTrain l .laneTrainFailed).hm = s.hm by rw [shape]; rfl)
          (show (u.completeTrain l .laneTrainFailed).lanes[l].state = _ by rw [last]; rfl)
        rw [← ends] at posts level refuses moved
        have hands := Hands.trans trains refuses serves
        have faulted : LaneMoved s t l
            (Lane.fault { y with goodRun := y.goodAfter j, waitingTrain := none }) := by
          rw [← last]
          exact moved.of_before (shape.trans (by rw [State.setLane_setLane]))
        rw [show (u.work.on fun s => s.completeTrain l .laneTrainFailed).s.lanes[l] = _ from last] at hands
        obtain ⟨active, rings, sc, -⟩ := faulted.keeps
        refine ⟨t, concluded, (congrArg Lane.inFlight faulted.lane :), faulted.others, active, rings, sc, fun hj h3 => ?_,
          fun _ _ h => ?_, fun _ h => ?_, fun _ _ => ?_⟩
        · refine absurd ?_ h4
          rw [Lane.goodAfter, if_pos hj, show y.goodRun = 3 from h3]
        · exact absurd h64 (Nat.ne_of_lt h)
        · exact absurd h64 (Nat.ne_of_lt h)
        · rw [faulted.lane]
          exact ⟨rfl, rfl, rfl, rfl, rfl, hands, posts, level⟩
      · have ends : t = s.setLane l { y with goodRun := y.goodAfter j } :=
          (congrArg Work.finish (Work.concludeProbe_goes_on (s := s) (l := l) h4 h64)).trans (State.postAll_nil _)
        have lane : t.lanes[l] = { y with goodRun := y.goodAfter j } := by rw [ends, State.setLane_here]
        have kept : t.active = s.active ∧ t.rings = s.rings ∧ t.sc = s.sc ∧ t.pairs = s.pairs ∧ t.ew = s.ew ∧
            t.hm = s.hm := by
          rw [ends]
          exact ⟨rfl, rfl, rfl, rfl, rfl, rfl⟩
        obtain ⟨active, rings, sc, rest⟩ := kept
        refine ⟨t, concluded, (congrArg Lane.inFlight lane :), fun m hm => by rw [ends, State.setLane_other _ _ _ _ hm], active, rings, sc,
          fun hj h3 => ?_, fun hj _ _ => ⟨?_, rest⟩, fun hj _ => ⟨?_, rest⟩, fun _ hn => absurd hn h64⟩
        · refine absurd ?_ h4
          rw [Lane.goodAfter, if_pos hj, show y.goodRun = 3 from h3]
        · rw [lane, Lane.goodAfter, if_pos hj]
          rfl
        · rw [lane, Lane.goodAfter, if_neg hj]
          rfl
  · rw [h.exec, Work.conclude_of_probe (w := (s.setReceiver l (receiverAfter c s l)).work)
      ((s.setReceiver_flight l _).trans h.2.1) hsrc]
    exact congrArg Host.Outcome.next ((State.postAll_nil _).trans (State.probe_left c s l))

end Sys2Proof.Machine

namespace Sys2Proof.Machine

set_option Elab.async false

/-! ### What a step puts out without a lane (R65) -/

/-- From `s` to `t` nothing is sent on a lane. -/
def SendsNoFrame (s t : State) : Prop :=
  ∃ sent, t.outputs = sent ++ s.outputs ∧ ∀ m r cells, Output.laneFrame m r cells ∉ sent

theorem SendsNoFrame.refl {s t : State} (h : t.outputs = s.outputs) : SendsNoFrame s t := ⟨[], h, fun _ _ _ => nofun⟩

theorem SendsNoFrame.trans {s t u : State} (h : SendsNoFrame s t) (k : SendsNoFrame t u) : SendsNoFrame s u := by
  obtain ⟨a, ha, na⟩ := h
  obtain ⟨b, hb, nb⟩ := k
  refine ⟨b ++ a, by rw [hb, ha, List.append_assoc], fun m r cells hm => ?_⟩
  obtain hm | hm := List.mem_append.1 hm
  · exact nb m r cells hm
  · exact na m r cells hm

theorem State.complete_noFrame (s : State) (ref : CmdRef) (status : Status) (result : Reg) :
    SendsNoFrame s (s.complete ref status result) := by
  cases hs : s.pairs[ref.pair].serves with
  | false =>
    rw [State.complete_retired s ref status result hs]
    exact .refl rfl
  | true =>
    obtain ⟨-, -, -, -, sent, -⟩ := s.complete_Handed hs status result
    cases hw : (s.pairs[ref.pair].writing).isSome with
    | true => exact .refl (sent.trans (if_pos hw))
    | false => exact ⟨[_], sent.trans (if_neg (by rw [hw]; exact nofun)), fun m r cells hm => nomatch List.mem_singleton.1 hm⟩

theorem State.completeAll_noFrame (refs : List CmdRef) (status : Status) (result : Reg) (s : State) :
    SendsNoFrame s (s.completeAll refs status result) := by
  induction refs generalizing s with
  | nil => exact .refl rfl
  | cons c cs ih => exact (s.complete_noFrame c status result).trans (ih (s.complete c status result))

theorem Work.finish_noFrame {w : Work} (h : w.s.dev ≠ .fatal) : SendsNoFrame w.s w.finish := by
  refine ⟨_, w.finish_outputs h, fun m r cells hm => ?_⟩
  unfold recordWrite at hm
  split at hm
  · split at hm
    · nomatch hm
    · nomatch List.mem_singleton.1 hm
  · nomatch hm

/-! ### A settled outcome before its step ends (R37) -/

/-- The completion of a settled outcome leaves what the pairs serve, and sends on no lane (R48). -/
theorem State.settleValues_serves (s : State) (f : Firing) (o : Verdict) :
    (∃ rs ps os, s.settleValues f o = { s with active := rs, pairs := ps, outputs := os }) ∧
    (∀ p : PairId, (s.settleValues f o).pairs[p].serves = s.pairs[p].serves) ∧ SendsNoFrame s (s.settleValues f o) := by
  unfold State.settleValues
  split
  · exact ⟨⟨s.active, s.pairs, s.outputs, rfl⟩, fun _ => rfl, .refl rfl⟩
  · rename_i a _
    dsimp only
    let u := s.updateRun f.handle fun r => r.settled a.entry.mode
    have plain : (∃ rs ps os, u = { s with active := rs, pairs := ps, outputs := os }) ∧
        (∀ p : PairId, u.pairs[p].serves = s.pairs[p].serves) ∧ SendsNoFrame s u :=
      ⟨⟨_, s.pairs, s.outputs, rfl⟩, fun _ => rfl, .refl rfl⟩
    split
    · rename_i d _
      split
      · obtain ⟨ps, os, h⟩ := u.complete_shape d.ref (if o = .done then .ok else .exchangeFailed)
          (pack [(o.code, 0), (f.cycle, 8)])
        exact ⟨⟨_, ps, os, h⟩, u.complete_keeps_serves d.ref _ _, u.complete_noFrame d.ref _ _⟩
      · exact plain
    · exact plain

/-- The outcome of a started firing settled, before the step ends: what it leaves as it was. -/
theorem State.afterOutcome_keeps (s : State) (f : Firing) (o : Verdict) :
    let a := s.afterOutcome f o true
    a = { s with active := a.active, hm := a.hm, pairs := a.pairs, outputs := a.outputs } ∧
    (∀ p : PairId, a.pairs[p].serves = s.pairs[p].serves) ∧ SendsNoFrame s a := by
  intro a
  change s.afterOutcome f o true = { s with
    active := (s.afterOutcome f o true).active, hm := (s.afterOutcome f o true).hm,
    pairs := (s.afterOutcome f o true).pairs, outputs := (s.afterOutcome f o true).outputs } ∧
    (∀ p : PairId, (s.afterOutcome f o true).pairs[p].serves = _) ∧ SendsNoFrame s (s.afterOutcome f o true)
  unfold State.afterOutcome
  split
  · obtain ⟨⟨rs, ps, os, h⟩, serves, quiet⟩ := (s.judged f o true).settleValues_serves f o
    refine ⟨?_, serves, quiet⟩
    rw [h]
    rfl
  · exact ⟨rfl, fun _ => rfl, .refl rfl⟩

/-- `Settled` reads of the state before only the table, the Health Monitor and the pairs. -/
theorem Settled.of_before {s u t : State} {f : Firing} {o : Verdict} {started : Bool} (h : Settled u t f o started)
    (ha : u.active = s.active) (hm : u.hm = s.hm) (hp : u.pairs = s.pairs) : Settled s t f o started := by
  unfold Settled reachedBy Hands at h ⊢
  rw [ha, hm, hp] at h
  exact h

/-- A lane that keeps its state leaves a settled outcome settled. -/
theorem Settled.setLane {s t : State} {f : Firing} {o : Verdict} {started : Bool} (h : Settled s t f o started)
    {l : LaneId} {x : Lane} (hx : x.state = t.lanes[l].state) : Settled s (t.setLane l x) f o started := by
  unfold Settled at h ⊢
  rw [State.healthNow_setLane t hx]
  exact h

/-! ### Scheduled exchanges (R36, R66, R88) -/

/-- The machine once a scheduled exchange has left its lane with its reservation returned. -/
def State.exchangeLeft (s : State) (c : Instr) (l : LaneId) (f : Firing) : State :=
  (s.returnSlot f).setLane l (s.laneLeft c l)

theorem State.returnSlot_shape (s : State) (f : Firing) : ∃ rs, s.returnSlot f = { s with rings := rs } := by
  unfold State.returnSlot
  split
  · exact ⟨_, rfl⟩
  · exact ⟨s.rings, rfl⟩

theorem State.returnSlot_rings (s : State) (f : Firing) :
    (f.kind = .fetch ∨ f.kind = .swap → (s.returnSlot f).rings[f.ring] = { s.rings[f.ring] with
      reserved := s.rings[f.ring].reserved - 1 }) ∧
    (f.kind = .send ∨ f.kind = .probe → (s.returnSlot f).rings = s.rings) ∧
    ∀ r : RingId, r ≠ f.ring → (s.returnSlot f).rings[r] = s.rings[r] := by
  unfold State.returnSlot
  refine ⟨fun h => ?_, fun h => ?_, fun r hr => ?_⟩
  · rw [if_pos (Kind.receives_iff.2 h)]
    exact s.setRing_same _ _
  · rw [if_neg (by obtain h | h := h <;> rw [h] <;> exact nofun)]
  · split
    · exact s.setRing_other _ _ _ hr
    · rfl

theorem State.returnSlot_setLane (s : State) (f : Firing) (l : LaneId) (y : Lane) :
    (s.setLane l y).returnSlot f = (s.returnSlot f).setLane l y := by
  unfold State.returnSlot
  split <;> rfl

/-- A scheduled exchange judged anything but a DONE with words leaves its lane and is settled (R36, R66). -/
theorem Work.conclude_scheduled {c : Instr} {s : State} {l : LaneId} {x : Exchange} {f : Firing} {j : Verdict}
    (words : List StationWord) (hx : s.lanes[l].inFlight = some x) (hsrc : x.source = .scheduled f)
    (hj : j ≠ .done ∨ f.kind = .send ∨ f.kind = .probe) :
    (s.setReceiver l (receiverAfter c s l)).work.conclude l j words =
      (Work.settle ⟨s.exchangeLeft c l f, [], []⟩ f j 0 true).countFailure l j := by
  have settles : ¬ (j = .done ∧ f.kind.receives = true) := by
    rintro ⟨hd, hk⟩
    obtain hj | hk' | hk' := hj
    · exact hj hd
    · rw [hk'] at hk
      nomatch hk
    · rw [hk'] at hk
      nomatch hk
  have left : ((s.setReceiver l (receiverAfter c s l)).returnSlot f).leaveLane l = s.exchangeLeft c l f := by
    unfold State.setReceiver State.leaveLane
    rw [State.returnSlot_setLane, State.setLane_setLane, State.setLane_here]
    rfl
  rw [Work.conclude_of_scheduled (w := (s.setReceiver l (receiverAfter c s l)).work)
    ((s.setReceiver_flight l _).trans hx) hsrc]
  refine congrArg (fun w : Work => w.countFailure l j) ((if_neg settles).trans ?_)
  exact congrArg (fun u => Work.settle ⟨u, [], []⟩ f j 0 true) left

/-- A FETCH or SWAP judged DONE hands its words to the write queue and stays in flight (R86). -/
theorem Work.conclude_words {c : Instr} {s : State} {l : LaneId} {x : Exchange} {f : Firing}
    (words : List StationWord) (hx : s.lanes[l].inFlight = some x) (hsrc : x.source = .scheduled f)
    (hk : f.kind = .fetch ∨ f.kind = .swap) :
    (s.setReceiver l (receiverAfter c s l)).work.conclude l .done words =
      Work.countFailure (State.work { s.setLane l { s.lanes[l] with
        inFlight := some { x with settling := true }, receiver := receiverAfter c s l } with
          slotQueue := s.slotQueue ++ [⟨l, words⟩] }) l .done := by
  rw [Work.conclude_of_scheduled (w := (s.setReceiver l (receiverAfter c s l)).work)
    ((s.setReceiver_flight l _).trans hx) hsrc]
  refine congrArg (fun w : Work => w.countFailure l .done) ((if_pos ⟨rfl, Kind.receives_iff.2 hk⟩).trans ?_)
  have lane : (s.setReceiver l (receiverAfter c s l)).setLane l
      { (s.setReceiver l (receiverAfter c s l)).lanes[l] with inFlight := some { x with settling := true } } =
        s.setLane l { s.lanes[l] with
          inFlight := some { x with settling := true }, receiver := receiverAfter c s l } := by
    unfold State.setReceiver
    rw [State.setLane_setLane, State.setLane_here]
  exact congrArg (fun u : State => State.work { u with slotQueue := s.slotQueue ++ [⟨l, words⟩] }) lane

end Sys2Proof.Machine

namespace Sys2Proof.Machine

set_option Elab.async false

section
variable {s : State} {c : Instr} {l : LaneId} {f : Firing}

theorem State.exchangeLeft_shape : ∃ rs, s.exchangeLeft c l f = { s.setLane l (s.laneLeft c l) with rings := rs } := by
  obtain ⟨rs, h⟩ := s.returnSlot_shape f
  exact ⟨rs, congrArg (fun t : State => t.setLane l (s.laneLeft c l)) h⟩

theorem State.exchangeLeft_rings : (s.exchangeLeft c l f).rings = (s.returnSlot f).rings := rfl

/-- A scheduled exchange judged and settled, before the failure count: `a` stands there. -/
theorem State.concludes_settled {x : Exchange} {j : Verdict} {words : List StationWord}
    (h : Concludes c s l x j words) (hsrc : x.source = .scheduled f) (hj : j ≠ .done ∨ f.kind = .send ∨ f.kind = .probe) :
    ∃ (a : State) (health : List Event),
      exec c s = .next (Work.countFailure ⟨a, outcomeEvents f j 0, health⟩ l j).finish ∧
      a = { s.setLane l (s.laneLeft c l) with
        active := a.active, hm := a.hm, pairs := a.pairs, outputs := a.outputs, rings := (s.returnSlot f).rings } ∧
      (∀ p : PairId, a.pairs[p].serves = s.pairs[p].serves) ∧ SendsNoFrame s a ∧
      (tableLaw s.activeEntries → health = settledHealth s a f j true ∧ Settled s a f j true) := by
  let u := s.exchangeLeft c l f
  obtain ⟨rs, left⟩ := State.exchangeLeft_shape (s := s) (c := c) (l := l) (f := f)
  change u = _ at left
  have active : u.active = s.active := (congrArg State.active left :)
  have monitor : u.hm = s.hm := (congrArg State.hm left :)
  have pairs : u.pairs = s.pairs := (congrArg State.pairs left :)
  have outputs : u.outputs = s.outputs := (congrArg State.outputs left :)
  obtain ⟨shape, serves, quiet⟩ := u.afterOutcome_keeps f j
  refine ⟨u.afterOutcome f j true, u.scoreEvents f j ++ readyRecords (u.hm.closed.map (namedBy f j true)), ?_, ?_,
    fun p => (serves p).trans ?_, ?_, fun law => ?_⟩
  · rw [h.exec, Work.conclude_scheduled words h.2.1 hsrc hj, Work.settle_spec]
    rfl
  · rw [shape]
    obtain ⟨rs', h'⟩ := s.returnSlot_shape f
    show ({ (s.returnSlot f).setLane l (s.laneLeft c l) with
      active := _, hm := _, pairs := _, outputs := _ } : State) = _
    rw [h']
    rfl
  · rw [pairs]
  · unfold SendsNoFrame at quiet ⊢
    rw [outputs] at quiet
    exact quiet
  · have handles : (u.activeEntries.map Entry.handle).Nodup := by
      rw [State.activeEntries, active]
      exact law.2.2
    refine ⟨?_, (State.afterOutcome_Settled handles f j true).of_before active monitor pairs⟩
    rw [settledHealth_eq handles]
    unfold settledHealth reachedBy healthChange
    rw [active, monitor]

end

/-- Settles O30: the exchange settled and then counted, or its words handed to the write queue. -/
theorem scheduledExchangesConclude : Obligations.ScheduledExchangesConclude := by
  unfold Obligations.ScheduledExchangesConclude
  refine ⟨fun c s l x f j words h hsrc hj few law => ?_, fun c s l x f words h hsrc hk => ?_⟩
  · obtain ⟨a, health, concluded, shape, serves, -, settles⟩ := State.concludes_settled h hsrc hj
    obtain ⟨rfl, settled⟩ := settles law
    have lanes : a.lanes = (s.setLane l (s.laneLeft c l)).lanes := (congrArg State.lanes shape :)
    have here : a.lanes[l] = s.laneLeft c l := by
      rw [lanes]
      exact State.setLane_here ..
    let y : Lane := { s.lanes[l] with
      inFlight := none, receiver := receiverAfter c s l, failures := failuresAfter s.lanes[l] j }
    let w : Work := ⟨a.setLane l y, outcomeEvents f j 0, settledHealth s a f j true⟩
    have counted : Work.countFailure ⟨a, outcomeEvents f j 0, settledHealth s a f j true⟩ l j = w := by
      rw [Work.countFailure_counts (by rw [here]; exact few)]
      dsimp only [Work.on]
      rw [here]
      rfl
    rw [counted] at concluded
    obtain ⟨e, os, n, ends⟩ := w.finish_shape
    have settles : Settled s w.finish f j true := Settled.finish (w := w) (settled.setLane (by rw [here]; rfl))
    have posts := Work.finish_Posts s w (show a.dev ≠ .fatal by rw [shape]; exact State.serving_not_fatal h.1)
      (show a.ew = s.ew by rw [shape]; rfl) (show a.sc.localTime = s.sc.localTime by rw [shape]; rfl)
    have health : settledHealth s w.finish f j true = w.health := by
      rw [ends]
      rfl
    rw [← health] at posts
    obtain ⟨slot, none, others⟩ := s.returnSlot_rings f
    have moved : w.finish.lanes = (s.setLane l y).lanes := by
      rw [ends, ← State.setLane_setLane s l (s.laneLeft c l) y]
      exact congrArg (fun v : Vector Lane 8 => v.set l y) lanes
    have rings' : w.finish.rings = (s.returnSlot f).rings := by
      rw [ends]
      exact (congrArg State.rings shape :)
    have kept : w.finish.slotQueue = s.slotQueue ∧ w.finish.edit = s.edit ∧ w.finish.session = s.session ∧
        w.finish.sc = s.sc ∧ w.finish.cycle = s.cycle ∧ w.finish.dev = s.dev := by
      rw [ends]
      show a.slotQueue = _ ∧ a.edit = _ ∧ a.session = _ ∧ a.sc = _ ∧ a.cycle = _ ∧ a.dev = _
      rw [shape]
      exact ⟨rfl, rfl, rfl, rfl, rfl, rfl⟩
    refine ⟨_, concluded, ?_, fun m hm => ?_, ?_, ?_, ?_, settles.active_detached, settles.active_attached,
      ⟨settles, posts⟩, kept⟩
    · rw [moved]
      exact State.setLane_here ..
    · rw [moved]
      exact State.setLane_other _ _ _ _ hm
    · rw [rings']
      exact slot
    · rw [rings']
      exact none
    · rw [rings']
      exact others
  · let y : Lane := { s.lanes[l] with inFlight := some { x with settling := true }, receiver := receiverAfter c s l }
    let u : State := { s.setLane l y with slotQueue := s.slotQueue ++ [⟨l, words⟩] }
    have here : u.lanes[l] = y := s.setLane_here l y
    have counted : Work.countFailure u.work l .done =
        State.work (u.setLane l { y with failures := failuresAfter s.lanes[l] .done }) := by
      rw [Work.countFailure_counts (fun _ hj => by simp at hj)]
      dsimp only [Work.on]
      rw [show u.work.s.lanes[l] = y from here]
      rfl
    have concluded : exec c s = .next (u.setLane l { y with failures := failuresAfter s.lanes[l] .done }) := by
      rw [h.exec, Work.conclude_words words h.2.1 hsrc hk]
      exact congrArg Host.Outcome.next ((congrArg Work.finish counted).trans (State.postAll_nil _))
    refine ⟨_, concluded, rfl, ?_, fun m hm => ?_, rfl, rfl, rfl, rfl, rfl, rfl⟩
    · rw [State.setLane_here, ← h.receiver_done]
    · rw [State.setLane_other _ _ _ _ hm]
      exact State.setLane_other _ _ _ _ hm

end Sys2Proof.Machine

namespace Sys2Proof.Machine

set_option Elab.async false

/-! ### A lane that faults (R71) -/

/-- The machine as a lane enters FAULTED, before its level. -/
def State.laneFaulted (s : State) (l : LaneId) : State :=
  (s.completeAll s.lanes[l].waitingRefs .laneNotReady 0).setLane l s.lanes[l].fault

/-- Entry into FAULTED, with what it posts (R71, R82, R129). -/
theorem Work.fault_spec (w : Work) (l : LaneId) (cause : LaneCause) :
    w.fault l cause =
      ⟨{ w.s.laneFaulted l with hm := (w.s.laneFaulted l).healthNow },
        w.others ++ [laneStateEvent w.s l .faulted cause.code],
        w.health ++ healthChange w.s { w.s.laneFaulted l with hm := (w.s.laneFaulted l).healthNow }⟩ := by
  obtain ⟨ps, os, shape⟩ := State.completeAll_shape w.s.lanes[l].waitingRefs .laneNotReady 0 w.s
  let u := w.s.completeAll w.s.lanes[l].waitingRefs .laneNotReady 0
  change u = _ at shape
  have level : (w.s.laneFaulted l).hm = w.s.hm := (congrArg State.hm shape :)
  have event : u.event .laneState (BitVec.ofNat 16 l.val)
      (pack [(w.s.lanes[l].fault.state.code, 0), (u.lanes[l].state.code, 8), (cause.code, 16)]) =
        laneStateEvent w.s l .faulted cause.code := by
    rw [shape]
    rfl
  unfold Work.fault Work.laneChange
  rw [Work.evaluate_spec]
  have posted : w.others ++ [u.event .laneState (BitVec.ofNat 16 l.val)
      (pack [(w.s.lanes[l].fault.state.code, 0), (u.lanes[l].state.code, 8), (cause.code, 16)])] =
        w.others ++ [laneStateEvent w.s l .faulted cause.code] := by rw [event]
  have change := healthChange_before { w.s.laneFaulted l with hm := (w.s.laneFaulted l).healthNow }
    (congrArg HealthMonitor.degraded level)
  exact congrArg₂ (fun os hs => Work.mk { w.s.laneFaulted l with hm := (w.s.laneFaulted l).healthNow } os (w.health ++ hs))
    posted change

theorem State.laneFaulted_shape (s : State) (l : LaneId) :
    ∃ ps os, s.laneFaulted l = { s.setLane l s.lanes[l].fault with pairs := ps, outputs := os } := by
  obtain ⟨ps, os, shape⟩ := State.completeAll_shape s.lanes[l].waitingRefs .laneNotReady 0 s
  exact ⟨ps, os, congrArg (fun t : State => t.setLane l s.lanes[l].fault) shape⟩

/-- A lane that faults sends nothing (R71). -/
theorem Work.fault_noFrame {w : Work} (hd : w.s.dev ≠ .fatal) (l : LaneId) (cause : LaneCause) :
    SendsNoFrame w.s (w.fault l cause).finish := by
  have state : (w.fault l cause).s = { w.s.laneFaulted l with hm := (w.s.laneFaulted l).healthNow } := by
    rw [Work.fault_spec]
  obtain ⟨ps, os, shape⟩ := w.s.laneFaulted_shape l
  have faults : SendsNoFrame w.s (w.fault l cause).s := by
    rw [state]
    exact State.completeAll_noFrame w.s.lanes[l].waitingRefs .laneNotReady 0 w.s
  refine faults.trans (Work.finish_noFrame ?_)
  rw [state, shape]
  exact hd

theorem State.healthNow_again (b : State) : ({ b with hm := b.healthNow } : State).healthNow = b.healthNow := rfl

/-- A step that settles an outcome, `a` standing there, and then changes the state of a lane: `b` stands where what the
change hands has been handed (R37, R61, R71). -/
theorem Work.settled_change {s a b : State} {l : LaneId} {z : Lane} {f : Firing} {j : Verdict} {change : Event}
    {health : List Event} {ps : Vector Pair 4} {os : List Output} {cs : List Completion}
    (hsc : a.sc = s.sc) (states : ∀ m : LaneId, a.lanes[m].state = s.lanes[m].state)
    (serves : ∀ p : PairId, a.pairs[p].serves = s.pairs[p].serves)
    (hb : b = { a.setLane l z with pairs := ps, outputs := os }) (hands : Hands a b cs) (hd : a.dev ≠ .fatal)
    (hew : a.ew = s.ew) :
    let w : Work := ⟨{ b with hm := b.healthNow }, outcomeEvents f j 0 ++ [change],
      health ++ healthChange a { b with hm := b.healthNow }⟩
    let t := w.finish
    t.healthNow = t.hm ∧
      (health = settledHealth s a f j true → Settled s a f j true → SettlesAndChanges s t f j change cs) ∧
      t.lanes = (a.setLane l z).lanes ∧ t.rings = a.rings ∧ t.slotQueue = a.slotQueue ∧ t.sc = a.sc ∧ t.dev = a.dev ∧
      t.buffers = a.buffers ∧ SendsNoFrame b t := by
  intro w t
  have alive : w.s.dev ≠ .fatal := by
    show b.dev ≠ .fatal
    rw [hb]
    exact hd
  obtain ⟨hm, level⟩ := w.finish_level
  obtain ⟨ew, out, n, finished⟩ := w.finish_shape
  have posts := Work.finish_Posts s w alive
    (show b.ew = s.ew by rw [hb]; exact hew) (show b.sc.localTime = _ by rw [hb]; exact congrArg TimeSync.localTime hsc)
  have sent := Work.finish_noFrame alive
  change t = _ at finished
  change t.hm = b.healthNow at hm
  have again : t.healthNow = t.hm := (level.trans b.healthNow_again).trans hm.symm
  have pairs : t.pairs = b.pairs := (congrArg State.pairs finished :)
  have kept : t.active = b.active ∧ t.lanes = b.lanes ∧ t.rings = b.rings ∧ t.slotQueue = b.slotQueue ∧ t.sc = b.sc ∧
      t.dev = b.dev ∧ t.buffers = b.buffers := by
    rw [finished]
    exact ⟨rfl, rfl, rfl, rfl, rfl, rfl, rfl⟩
  have posted : healthChange a { b with hm := b.healthNow } = healthChange a t := by
    rw [finished]
    rfl
  obtain ⟨active, lanes, rings, slotQueue, sc, dev, buffers⟩ := kept
  have hbm : b.hm = a.hm := (congrArg State.hm hb :)
  have ends (settled : Settled s a f j true) (hh : health = settledHealth s a f j true) :
      SettlesAndChanges s t f j change cs := by
    refine ⟨a, settled, hsc, states, active.trans (congrArg State.active hb :), ?_, ?_, serves, ?_⟩
    · rw [hm]
      exact State.healthNow_congr hbm active.symm sc.symm fun m => by rw [lanes]
    · unfold Hands at hands ⊢
      rw [pairs]
      exact hands
    · rw [← posted, ← hh]
      exact posts
  exact ⟨again, fun hh settled => ends settled hh, lanes.trans (congrArg State.lanes hb :),
    rings.trans (congrArg State.rings hb :), slotQueue.trans (congrArg State.slotQueue hb :),
    sc.trans (congrArg State.sc hb :), dev.trans (congrArg State.dev hb :), buffers.trans (congrArg State.buffers hb :), sent⟩

/-- The lane of the sixth failure in a row as it faults (R70, R71). -/
def State.sixthFailure (s : State) (l : LaneId) : Lane :=
  { s.lanes[l] with
    state := .faulted, failures := 6, queue := [], inFlight := none, receiver := .idle,
    retrainTimer := if (s.lanes[l]).autoRetrain then some ((s.lanes[l]).retrainDelay * 100000) else none }

section
variable {c : Instr} {s : State} {l : LaneId} {x : Exchange} {j : Verdict} {words : List StationWord}
  (h : Concludes c s l x j words) (hj : j = .noReply ∨ j = .badCheck ∨ j = .badReply)
  (hr : (s.lanes[l]).state = .ready) (hf : (s.lanes[l]).failures = 5)
include h hj hr hf

/-- The sixth failure in a row of a lane with a scheduled exchange (R36, R71). -/
theorem State.sixth_scheduled {f : Firing} (hsrc : x.source = .scheduled f) :
    ∃ t, exec c s = .next t ∧ t.lanes[l] = s.sixthFailure l ∧ OtherLanesKept s t l ∧ t.healthNow = t.hm ∧
      (tableLaw s.activeEntries → SettlesAndChanges s t f j (laneStateEvent s l .faulted 5)
        ((s.lanes[l]).queue.map fun q => ⟨q.exchange.ref, .laneNotReady, 0⟩)) ∧
      t.rings = (s.returnSlot f).rings ∧ SendsNoFrame s t ∧ t.slotQueue = s.slotQueue ∧ t.sc = s.sc ∧ t.dev = s.dev := by
  have failed : j ≠ .done := by
    rintro rfl
    simp at hj
  obtain ⟨a, health, concluded, shape, serves, quiet, settles⟩ := State.concludes_settled h hsrc (.inl failed)
  have lanes : a.lanes = (s.setLane l (s.laneLeft c l)).lanes := (congrArg State.lanes shape :)
  have here : a.lanes[l] = s.laneLeft c l := by
    rw [lanes]
    exact State.setLane_here ..
  let y : Lane := { s.laneLeft c l with failures := 6 }
  let u : State := a.setLane l y
  let w : Work := ⟨u, outcomeEvents f j 0, health⟩
  have there : u.lanes[l] = y := State.setLane_here ..
  have ulanes (m : LaneId) : u.lanes[m] = if m = l then y else s.lanes[m] := by
    rw [State.setLane_at]
    split
    · rfl
    · rename_i hm
      rw [lanes, State.setLane_other _ _ _ _ hm]
  have counted : Work.countFailure ⟨a, outcomeEvents f j 0, health⟩ l j = w.fault l .failures := by
    rw [Work.countFailure_faults (by rw [here]; exact hr) hj (by rw [here]; exact hf)]
    dsimp only [Work.on]
    rw [here]
  rw [counted] at concluded
  obtain ⟨ps, os, faulted⟩ := u.laneFaulted_shape l
  rw [there] at faulted
  have usc : u.sc = s.sc := (congrArg State.sc shape :)
  obtain ⟨refuses, -⟩ := State.completeAll_Hands u.lanes[l].waitingRefs .laneNotReady 0 u
  have queue : u.lanes[l].queue = s.lanes[l].queue := (congrArg Lane.queue there :)
  rw [Lane.waitingRefs_completions, queue] at refuses
  have alive : u.dev ≠ .fatal := by
    show a.dev ≠ .fatal
    rw [shape]
    exact State.serving_not_fatal h.1
  obtain ⟨level, changes, tlanes, rings, slotQueue, clock, dev, -, sent⟩ :=
    Work.settled_change (s := s) (f := f) (j := j) (health := health) (change := laneStateEvent s l .faulted 5)
      usc (fun m => by
        rw [ulanes]
        split
        · rename_i hm
          rw [hm]
          rfl
        · rfl) serves faulted refuses alive (show a.ew = s.ew by rw [shape]; rfl)
  have event : laneStateEvent u l .faulted LaneCause.failures.code = laneStateEvent s l .faulted 5 := by
    unfold laneStateEvent
    rw [usc, there]
    rfl
  rw [Work.fault_spec, show laneStateEvent w.s l .faulted LaneCause.failures.code = _ from event] at concluded
  refine ⟨_, concluded, ?_, fun m hm => ?_, level, fun law => ?_, rings.trans (congrArg State.rings shape :), ?_,
    slotQueue.trans (congrArg State.slotQueue shape :), clock.trans usc, dev.trans (congrArg State.dev shape :)⟩
  · exact (congrArg (fun v : Vector Lane 8 => v[l]) tlanes).trans (u.setLane_here l y.fault)
  · refine (congrArg (fun v : Vector Lane 8 => v[m]) tlanes).trans ((State.setLane_other _ _ _ _ hm).trans ?_)
    rw [ulanes, if_neg hm]
  · obtain ⟨posted, settled⟩ := settles law
    exact changes posted (settled.setLane (by rw [here]))
  · exact (quiet.trans (State.completeAll_noFrame u.lanes[l].waitingRefs .laneNotReady 0 u)).trans sent

/-- The sixth failure in a row of a lane with a host exchange (R71, R79). -/
theorem State.sixth_host {e : HostExchange} (hsrc : x.source = .host e) :
    ∃ t, exec c s = .next t ∧ t.lanes[l] = s.sixthFailure l ∧ OtherLanesKept s t l ∧
      Hands s t ({ ref := e.ref, status := .exchangeFailed,
                   result := BitVec.ofNat 32 (j.code + 256 * x.sequence.toNat) } ::
        (s.lanes[l]).queue.map fun q => ⟨q.exchange.ref, .laneNotReady, 0⟩) ∧
      Posts s t [laneStateEvent s l .faulted 5] (healthChange s t) ∧ Evaluated s t ∧ t.active = s.active ∧
      t.rings = s.rings ∧ t.buffers = s.buffers ∧ SendsNoFrame s t ∧ t.slotQueue = s.slotQueue ∧ t.sc = s.sc ∧
      t.dev = s.dev := by
  have failed : j ≠ .done := by
    rintro rfl
    simp at hj
  let result := BitVec.ofNat 32 (j.code + 256 * x.sequence.toNat)
  let v := s.complete e.ref .exchangeFailed result
  let y : Lane := { s.laneLeft c l with failures := 6 }
  let u : State := v.setLane l y
  have there : u.lanes[l] = y := State.setLane_here ..
  have counted : Work.countFailure (v.setLane l (s.laneLeft c l)).work l j = u.work.fault l .failures := by
    have here : (v.setLane l (s.laneLeft c l)).work.s.lanes[l] = s.laneLeft c l := State.setLane_here ..
    rw [Work.countFailure_faults (by rw [here]; exact hr) hj (by rw [here]; exact hf)]
    dsimp only [Work.on]
    rw [here, show (v.setLane l (s.laneLeft c l)).work.s.setLane l { s.laneLeft c l with failures := 6 } = u from
      State.setLane_setLane ..]
    rfl
  have concluded : exec c s = .next (u.work.fault l .failures).finish := by
    rw [h.exec, Work.conclude_host j words h.2.1 hsrc, State.hostConcluded_failed failed]
    exact congrArg (fun w : Work => Host.Outcome.next w.finish) counted
  obtain ⟨ps, os, shape⟩ := s.complete_shape e.ref .exchangeFailed result
  change v = _ at shape
  have lane : u.lanes[l].state = s.lanes[l].state := (congrArg Lane.state there :)
  obtain ⟨posts, level, refuses, moved⟩ := Work.fault_finish (s := s) (w := u.work) l .failures
    (show v.dev ≠ .fatal by rw [shape]; exact State.serving_not_fatal h.1) rfl (show v.ew = s.ew by rw [shape])
    (show v.sc = s.sc by rw [shape]) (show v.hm = s.hm by rw [shape]) lane
  have quiet := Work.fault_noFrame (w := u.work) (show v.dev ≠ .fatal by rw [shape]; exact State.serving_not_fatal h.1) l
    .failures
  generalize (u.work.fault l .failures).finish = t at concluded posts level refuses moved quiet
  have faulted : LaneMoved s t l y.fault := by
    rw [show u.work.s.lanes[l] = y from there] at moved
    exact moved.of_before (congrArg (fun w : State => w.setLane l y) shape)
  obtain ⟨active, rings, sc, dev, slotQueue, buffers⟩ := faulted.keeps
  have queue : u.work.s.lanes[l].queue = s.lanes[l].queue := (congrArg Lane.queue there :)
  rw [queue] at refuses
  exact ⟨t, concluded, faulted.lane, faulted.others,
    Hands.trans (s.complete_Hands e.ref .exchangeFailed result) refuses (s.complete_keeps_serves e.ref .exchangeFailed result),
    posts, level, active, rings, buffers,
    (show SendsNoFrame s u from s.complete_noFrame e.ref .exchangeFailed result).trans quiet, slotQueue, sc, dev⟩

end

/-- Settles O33: by the kind of the exchange that fails. -/
theorem sixthFailureFaultsTheLane : Obligations.SixthFailureFaultsTheLane := by
  unfold Obligations.SixthFailureFaultsTheLane
  intro c s l x j words h hp hj hr hf refused
  cases hsrc : x.source with
  | probe b => exact absurd hsrc (hp b)
  | scheduled f =>
    obtain ⟨t, concluded, lane, others, level, settles, rings, sent, slotQueue, sc, dev⟩ :=
      State.sixth_scheduled h hj hr hf hsrc
    refine ⟨t, concluded, lane, fun f' he law => ?_, fun e hs => (nomatch hs), sent, others, slotQueue, sc, dev⟩
    cases he
    rw [rings]
    exact ⟨level, settles law, s.returnSlot_rings f⟩
  | host e =>
    obtain ⟨t, concluded, lane, others, hands, posts, level, active, rings, buffers, sent, slotQueue, sc, dev⟩ :=
      State.sixth_host h hj hr hf hsrc
    refine ⟨t, concluded, lane, fun f hs => (nomatch hs), fun e' he => ?_, sent, others, slotQueue, sc, dev⟩
    cases he
    exact ⟨hands, posts, level, active, rings, buffers⟩

end Sys2Proof.Machine

/-! PROOFS. LANE CONFIGURE: the settings, the run, and what disabling ends. -/

namespace Sys2Proof.Machine

set_option Elab.async false

/-! ### A change of lane state that is answered (R61, R82) -/

/-- The machine once a lane has changed and the command is answered, before the level. -/
def State.laneAnswered (s : State) (l : LaneId) (x : Lane) (ref : CmdRef) : State :=
  (s.setLane l x).complete ref .ok (BitVec.ofNat 32 x.state.code)

theorem State.laneAnswered_shape (s : State) (l : LaneId) (x : Lane) (ref : CmdRef) :
    ∃ ps os, s.laneAnswered l x ref = { s.setLane l x with pairs := ps, outputs := os } :=
  (s.setLane l x).complete_shape ref .ok _

/-- Completing a command and a new level do not meet. -/
theorem State.complete_hm (s : State) (m : HealthMonitor) (ref : CmdRef) (status : Status) (result : Reg) :
    ({ s with hm := m } : State).complete ref status result = { s.complete ref status result with hm := m } := by
  unfold State.complete
  dsimp only
  split <;> rfl

/-- A change of lane state with its answer: what is posted, and the level (R61, R82, R129). -/
theorem Work.laneChange_answered (w : Work) (l : LaneId) (x : Lane) (cause : LaneCause) (ref : CmdRef) :
    ((w.laneChange l x cause).on fun t => t.complete ref .ok (pack [(t.lanes[l].state.code, 0)])) =
      ⟨{ w.s.laneAnswered l x ref with hm := (w.s.laneAnswered l x ref).healthNow },
        w.others ++ [laneStateEvent w.s l x.state cause.code],
        w.health ++ healthChange w.s { w.s.laneAnswered l x ref with hm := (w.s.laneAnswered l x ref).healthNow }⟩ := by
  obtain ⟨ps, os, shape⟩ := w.s.laneAnswered_shape l x ref
  have level : (w.s.laneAnswered l x ref).healthNow = (w.s.setLane l x).healthNow := by
    rw [shape]
    exact State.healthNow_congr rfl rfl rfl fun _ => rfl
  have change : healthChange (w.s.setLane l x) { w.s.setLane l x with hm := (w.s.setLane l x).healthNow } =
      healthChange w.s { w.s.laneAnswered l x ref with hm := (w.s.laneAnswered l x ref).healthNow } := by
    rw [level, shape]
    rfl
  have answered : ({ w.s.setLane l x with hm := (w.s.setLane l x).healthNow } : State).complete ref .ok
      (pack [(({ w.s.setLane l x with hm := (w.s.setLane l x).healthNow } : State).lanes[l].state.code, 0)]) =
        { w.s.laneAnswered l x ref with hm := (w.s.laneAnswered l x ref).healthNow } := by
    have here : ({ w.s.setLane l x with hm := (w.s.setLane l x).healthNow } : State).lanes[l] = x :=
      w.s.setLane_here l x
    rw [State.complete_hm, level, pack_single, here]
    rfl
  unfold Work.laneChange
  rw [Work.evaluate_spec]
  exact congrArg₂ (fun s hs => Work.mk s (w.others ++ [laneStateEvent w.s l x.state cause.code]) (w.health ++ hs))
    answered change

/-- What a change of lane state leaves alone, whatever else its step does. -/
theorem State.laneAnswered_keeps (s : State) (l : LaneId) (x : Lane) (ref : CmdRef) :
    Hands s (s.laneAnswered l x ref) [⟨ref, .ok, BitVec.ofNat 32 x.state.code⟩] ∧ SendsNoFrame s (s.laneAnswered l x ref) :=
  ⟨(s.setLane l x).complete_Hands ref .ok _, (s.setLane l x).complete_noFrame ref .ok _⟩

/-- A step that ends with a change of lane state and its answer. -/
theorem Work.answered_finish {s : State} {w : Work} (l : LaneId) (x : Lane) (cause : LaneCause) (ref : CmdRef)
    (hd : w.s.dev ≠ .fatal) (hh : w.health = []) (he : w.s.ew = s.ew) (hsc : w.s.sc = s.sc) (hm : w.s.hm = s.hm)
    (hl : w.s.lanes[l].state = s.lanes[l].state) :
    let t := ((w.laneChange l x cause).on fun t => t.complete ref .ok (pack [(t.lanes[l].state.code, 0)])).finish
    Posts s t (w.others ++ [laneStateEvent s l x.state cause.code]) (healthChange s t) ∧ Evaluated s t ∧
      Hands w.s t [⟨ref, .ok, BitVec.ofNat 32 x.state.code⟩] ∧ LaneMoved w.s t l x ∧ SendsNoFrame w.s t := by
  intro t
  let b := w.s.laneAnswered l x ref
  let v : State := { b with hm := b.healthNow }
  obtain ⟨ps, os, shape⟩ := w.s.laneAnswered_shape l x ref
  change b = _ at shape
  obtain ⟨hands, quiet⟩ := w.s.laneAnswered_keeps l x ref
  have event : laneStateEvent w.s l x.state cause.code = laneStateEvent s l x.state cause.code := by
    unfold laneStateEvent
    rw [hsc, hl]
  let e : Work := ⟨v, w.others ++ [laneStateEvent s l x.state cause.code], healthChange s v⟩
  have ends : t = e.finish := by
    refine congrArg Work.finish ((Work.laneChange_answered w l x cause ref).trans ?_)
    rw [event, hh, healthChange_before _ (congrArg HealthMonitor.degraded hm)]
    rfl
  have alive : v.dev ≠ .fatal := show b.dev ≠ .fatal by rw [shape]; exact hd
  obtain ⟨w', os', n, finished⟩ := e.finish_shape
  have posts := Work.finish_Posts s e alive (show b.ew = s.ew by rw [shape]; exact he)
    (show b.sc.localTime = s.sc.localTime by rw [shape]; exact congrArg TimeSync.localTime hsc)
  rw [← ends] at finished posts
  have change : healthChange s t = healthChange s v := by
    rw [finished]
    rfl
  have last : t.hm = b.healthNow := (congrArg State.hm finished :)
  have bhm : b.hm = s.hm := (congrArg State.hm shape).trans hm
  refine ⟨by rw [change]; exact posts, ⟨?_, ?_⟩, ?_, ?_, ?_⟩
  · rw [last, finished]
    rfl
  · rw [last, ← bhm]
    exact ⟨rfl, rfl, rfl, rfl, rfl⟩
  · have pairs : t.pairs = b.pairs := (congrArg State.pairs finished :)
    unfold Hands at hands ⊢
    rw [pairs]
    exact hands
  · have pairs : t.pairs = ps := (congrArg State.pairs finished).trans (congrArg State.pairs shape :)
    have whole : t = { b with hm := t.hm, ew := t.ew, outputs := t.outputs, free := t.free } := by
      rw [finished]
    unfold LaneMoved
    rw [pairs]
    exact whole.trans (congrArg (fun c : State =>
      { c with hm := t.hm, ew := t.ew, outputs := t.outputs, free := t.free }) shape)
  · rw [ends]
    exact (show SendsNoFrame w.s v from quiet).trans (Work.finish_noFrame alive)

end Sys2Proof.Machine

namespace Sys2Proof.Machine

set_option Elab.async false

/-! ### What disabling ends (R61) -/

theorem State.completeTrain_noFrame (s : State) (l : LaneId) (status : Status) :
    SendsNoFrame s (s.completeTrain l status) := by
  unfold State.completeTrain
  split
  · exact .refl rfl
  · rename_i ref _
    exact (s.setLane l { s.lanes[l] with waitingTrain := none }).complete_noFrame ref status 0

/-- The machine once the queue and the waiting TRAIN LANE of a disabled lane have been ended (R61). -/
def State.workEnded (s : State) (l : LaneId) : State :=
  (s.completeAll s.lanes[l].waitingRefs .laneNotReady 0).completeTrain l .cancelled

/-- What a disabled lane refuses and cancels (R61). -/
def Lane.ended (x : Lane) : List Completion :=
  (x.queue.map fun q => ⟨q.exchange.ref, .laneNotReady, 0⟩) ++ x.waitingTrain.toList.map fun ref => ⟨ref, .cancelled, 0⟩

theorem State.workEnded_spec (s : State) (l : LaneId) :
    (∃ ps os, s.workEnded l = { s.setLane l { s.lanes[l] with waitingTrain := none } with pairs := ps, outputs := os }) ∧
    Hands s (s.workEnded l) s.lanes[l].ended ∧
    (∀ p : PairId, (s.workEnded l).pairs[p].serves = s.pairs[p].serves) ∧ SendsNoFrame s (s.workEnded l) := by
  let u := s.completeAll s.lanes[l].waitingRefs .laneNotReady 0
  obtain ⟨ps, os, shape⟩ := State.completeAll_shape s.lanes[l].waitingRefs .laneNotReady 0 s
  change u = _ at shape
  obtain ⟨refuses, serves⟩ := State.completeAll_Hands s.lanes[l].waitingRefs .laneNotReady 0 s
  obtain ⟨⟨ps', os', cancelled⟩, cancels, serves'⟩ := u.completeTrain_spec l .cancelled
  have lane : u.lanes[l] = s.lanes[l] := congrArg (fun v : Vector Lane 8 => v[l]) (congrArg State.lanes shape :)
  rw [Lane.waitingRefs_completions] at refuses
  rw [lane] at cancelled cancels
  refine ⟨⟨ps', os', cancelled.trans ?_⟩, Hands.trans refuses cancels serves, fun p => (serves' p).trans (serves p),
    (State.completeAll_noFrame _ _ _ s).trans (u.completeTrain_noFrame l .cancelled)⟩
  rw [shape]
  rfl

theorem State.workEnded_lane (s : State) (l : LaneId) :
    (s.workEnded l).lanes[l] = { s.lanes[l] with waitingTrain := none } := by
  obtain ⟨⟨ps, os, shape⟩, -⟩ := s.workEnded_spec l
  rw [show (s.workEnded l).lanes = (s.setLane l { s.lanes[l] with waitingTrain := none }).lanes from
    (congrArg State.lanes shape :)]
  exact State.setLane_here ..

/-- A lane that enters OFF does so whatever TRAIN LANE waited (R61). -/
theorem Lane.turnOff_untrained (x : Lane) : Lane.turnOff { x with waitingTrain := none } = x.turnOff := rfl

/-- A lane that enters OFF once its exchange has been ended (R61). -/
theorem Work.disable_eq (w : Work) (l : LaneId) :
    w.disable l = ((w.abandon l).on fun s => s.workEnded l).laneChange l (w.abandon l).s.lanes[l].turnOff .disabled := by
  have lane : ((w.abandon l).on fun s => s.workEnded l).s.lanes[l].turnOff = (w.abandon l).s.lanes[l].turnOff := by
    rw [show ((w.abandon l).on fun s => s.workEnded l).s.lanes[l] = _ from State.workEnded_lane _ l]
    rfl
  rw [← lane]
  rfl

/-- A step that disables a lane without a scheduled exchange to settle: `v` stands where its exchange has been ended. -/
theorem Work.disable_finish {s v : State} {l : LaneId} {y : Lane} {ps : Vector Pair 4} {os : List Output}
    {cs : List Completion} (ref : CmdRef) (hv : v = { s.setLane l y with pairs := ps, outputs := os })
    (hd : s.dev ≠ .fatal) (hl : y.state = s.lanes[l].state) (hands : Hands s v cs)
    (serves : ∀ p : PairId, v.pairs[p].serves = s.pairs[p].serves) (quiet : SendsNoFrame s v) :
    let t := (((v.work.on fun s => s.workEnded l).laneChange l y.turnOff .disabled).on
      fun t => t.complete ref .ok (pack [(t.lanes[l].state.code, 0)])).finish
    Posts s t [laneStateEvent s l .off 2] (healthChange s t) ∧ Evaluated s t ∧
      Hands s t (cs ++ y.ended ++ [⟨ref, .ok, BitVec.ofNat 32 LaneState.off.code⟩]) ∧ LaneMoved s t l y.turnOff ∧
      SendsNoFrame s t := by
  intro t
  have lane : v.lanes[l] = y := by
    rw [show v.lanes = (s.setLane l y).lanes from (congrArg State.lanes hv :)]
    exact State.setLane_here ..
  obtain ⟨⟨ps', os', ended⟩, ends, serves', quiet'⟩ := v.workEnded_spec l
  have last := v.workEnded_lane l
  rw [lane] at ended ends last
  have flat : v.workEnded l = { s.setLane l { y with waitingTrain := none } with pairs := ps', outputs := os' } := by
    rw [ended, hv]
    show ({ (s.setLane l y).setLane l { y with waitingTrain := none } with pairs := ps', outputs := os' } : State) = _
    rw [State.setLane_setLane]
  obtain ⟨posts, level, answers, moved, quiet''⟩ := Work.answered_finish (s := s)
    (w := v.work.on fun s => s.workEnded l) l y.turnOff .disabled ref
    (show (v.workEnded l).dev ≠ .fatal by rw [flat]; exact hd) rfl (show (v.workEnded l).ew = s.ew by rw [flat]; rfl)
    (show (v.workEnded l).sc = s.sc by rw [flat]; rfl) (show (v.workEnded l).hm = s.hm by rw [flat]; rfl)
    (show (v.workEnded l).lanes[l].state = _ by rw [last]; exact hl)
  have all := (hands.trans ends serves).trans answers fun p => (serves' p).trans (serves p)
  exact ⟨posts, level, all, moved.of_before flat, (quiet.trans quiet').trans quiet''⟩

end Sys2Proof.Machine

namespace Sys2Proof.Machine

set_option Elab.async false

/-! ### The exchange that disabling abandons (R61) -/

section
variable {s : State} {l : LaneId} {y : Lane} {x : Exchange}

theorem Work.abandon_none (hx : y.inFlight = none) : (s.setLane l y).work.abandon l = (s.setLane l y).work := by
  have here : (s.setLane l y).work.s.lanes[l].inFlight = none := by
    rw [show (s.setLane l y).work.s.lanes[l] = y from State.setLane_here ..]
    exact hx
  unfold Work.abandon
  rw [here]

theorem State.leaveLane_setLane : (s.setLane l y).leaveLane l = s.setLane l { y with inFlight := none } := by
  unfold State.leaveLane
  rw [State.setLane_setLane, State.setLane_here]

variable (hx : y.inFlight = some x)
include hx

theorem Work.abandon_flight : (s.setLane l y).work.s.lanes[l].inFlight = some x := by
  rw [show (s.setLane l y).work.s.lanes[l] = y from State.setLane_here ..]
  exact hx

theorem Work.abandon_settling (hn : x.settling = true) : (s.setLane l y).work.abandon l = (s.setLane l y).work := by
  unfold Work.abandon
  rw [Work.abandon_flight hx]
  exact if_pos hn

theorem Work.abandon_probe {b : Bool} (hn : x.settling = false) (hsrc : x.source = .probe b) :
    (s.setLane l y).work.abandon l = (s.setLane l { y with inFlight := none }).work := by
  unfold Work.abandon
  rw [Work.abandon_flight hx]
  dsimp only
  rw [hn, hsrc]
  exact congrArg State.work (State.leaveLane_setLane)

theorem Work.abandon_host {e : HostExchange} (hn : x.settling = false) (hsrc : x.source = .host e) :
    (s.setLane l y).work.abandon l =
      ((s.complete e.ref .exchangeFailed (BitVec.ofNat 32 (5 + 256 * x.sequence.toNat))).setLane l
        { y with inFlight := none }).work := by
  have completes : ((s.setLane l y).leaveLane l).complete e.ref .exchangeFailed (exchangeResult .noReply x.sequence) =
      (s.complete e.ref .exchangeFailed (BitVec.ofNat 32 (5 + 256 * x.sequence.toNat))).setLane l
        { y with inFlight := none } := by
    rw [State.leaveLane_setLane, State.complete_setLane, exchangeResult_eq]
    rfl
  unfold Work.abandon
  rw [Work.abandon_flight hx]
  dsimp only
  rw [hn, hsrc]
  exact congrArg State.work completes

theorem Work.abandon_scheduled {f : Firing} (hn : x.settling = false) (hsrc : x.source = .scheduled f) :
    (s.setLane l y).work.abandon l =
      Work.settle ⟨(s.returnSlot f).setLane l { y with inFlight := none }, [], []⟩ f .noReply 0 true := by
  have leaves : ((s.setLane l y).returnSlot f).leaveLane l = (s.returnSlot f).setLane l { y with inFlight := none } := by
    rw [State.returnSlot_setLane, State.leaveLane_setLane]
  unfold Work.abandon
  rw [Work.abandon_flight hx]
  dsimp only
  rw [hn, hsrc]
  exact congrArg (fun u => Work.settle ⟨u, [], []⟩ f .noReply 0 true) leaves

end

/-- A step that disables a lane with a scheduled exchange to settle (R36, R61). -/
theorem Work.disable_scheduled {s : State} {l : LaneId} {y : Lane} {f : Firing} (ref : CmdRef) (hd : s.dev ≠ .fatal)
    (hl : y.state = s.lanes[l].state) :
    let w := Work.settle ⟨(s.returnSlot f).setLane l y, [], []⟩ f .noReply 0 true
    let t := (((w.on fun s => s.workEnded l).laneChange l w.s.lanes[l].turnOff .disabled).on
      fun t => t.complete ref .ok (pack [(t.lanes[l].state.code, 0)])).finish
    t.lanes[l] = y.turnOff ∧ OtherLanesKept s t l ∧ t.healthNow = t.hm ∧
      (tableLaw s.activeEntries → SettlesAndChanges s t f .noReply (laneStateEvent s l .off 2)
        (y.ended ++ [⟨ref, .ok, BitVec.ofNat 32 LaneState.off.code⟩])) ∧
      t.rings = (s.returnSlot f).rings ∧ SendsNoFrame s t ∧ t.slotQueue = s.slotQueue ∧
      t.buffers = s.buffers := by
  intro w t
  let u := (s.returnSlot f).setLane l y
  let a := u.afterOutcome f .noReply true
  let health := u.scoreEvents f .noReply ++ readyRecords (u.hm.closed.map (namedBy f .noReply true))
  have settles : w = ⟨a, outcomeEvents f .noReply 0, health⟩ := Work.settle_spec ..
  obtain ⟨rs, returned⟩ := s.returnSlot_shape f
  have left : u = { s.setLane l y with rings := rs } := congrArg (fun t : State => t.setLane l y) returned
  obtain ⟨shape, serves, quiet⟩ := u.afterOutcome_keeps f .noReply
  change a = { u with active := a.active, hm := a.hm, pairs := a.pairs, outputs := a.outputs } at shape
  have lanes : a.lanes = (s.setLane l y).lanes := (congrArg State.lanes shape).trans (congrArg State.lanes left :)
  have here : a.lanes[l] = y := by
    rw [lanes]
    exact State.setLane_here ..
  have asc : a.sc = s.sc := (congrArg State.sc shape).trans (congrArg State.sc left :)
  have lanesAt (m : LaneId) : a.lanes[m] = if m = l then y else s.lanes[m] := by
    rw [lanes, State.setLane_at]
  obtain ⟨⟨ps, os, ended⟩, ends, serves', quiet'⟩ := a.workEnded_spec l
  have last := a.workEnded_lane l
  rw [here] at ended ends last
  obtain ⟨ps', os', answered⟩ := (a.workEnded l).laneAnswered_shape l y.turnOff ref
  obtain ⟨answers, quiet''⟩ := (a.workEnded l).laneAnswered_keeps l y.turnOff ref
  have flat : (a.workEnded l).laneAnswered l y.turnOff ref =
      { a.setLane l y.turnOff with pairs := ps', outputs := os' } := by
    rw [answered, ended]
    show ({ (a.setLane l _).setLane l y.turnOff with pairs := ps', outputs := os' } : State) = _
    rw [State.setLane_setLane]
  have uactive : u.active = s.active := (congrArg State.active left :)
  have umonitor : u.hm = s.hm := (congrArg State.hm left :)
  have upairs : u.pairs = s.pairs := (congrArg State.pairs left :)
  have kept : a.dev = s.dev ∧ a.ew = s.ew ∧ a.rings = (s.returnSlot f).rings ∧ a.slotQueue = s.slotQueue ∧
      a.buffers = s.buffers := by
    have same : a.dev = u.dev ∧ a.ew = u.ew ∧ a.rings = u.rings ∧ a.slotQueue = u.slotQueue ∧ a.buffers = u.buffers := by
      rw [shape]
      exact ⟨rfl, rfl, rfl, rfl, rfl⟩
    obtain ⟨dev, ew, rings, slotQueue, buffers⟩ := same
    exact ⟨dev.trans (congrArg State.dev left :), ew.trans (congrArg State.ew left :), rings,
      slotQueue.trans (congrArg State.slotQueue left :), buffers.trans (congrArg State.buffers left :)⟩
  obtain ⟨dev, ew, rings, slotQueue, buffers⟩ := kept
  have states (m : LaneId) : a.lanes[m].state = s.lanes[m].state := by
    rw [lanesAt]
    split
    · rename_i hm
      rw [hm, hl]
    · rfl
  obtain ⟨level, changes, tlanes, rings', slotQueue', -, -, buffers', sent⟩ :=
    Work.settled_change (s := s) (f := f) (j := .noReply) (health := health) (change := laneStateEvent s l .off 2)
      asc states (fun p => (serves p).trans (by rw [upairs])) flat (Hands.trans ends answers serves')
      (by rw [dev]; exact hd) ew
  have event : laneStateEvent (a.workEnded l) l .off LaneCause.disabled.code = laneStateEvent s l .off 2 := by
    have esc : (a.workEnded l).sc = s.sc := (congrArg State.sc ended).trans asc
    unfold laneStateEvent
    rw [last, esc, ← hl]
    rfl
  have total : t = Work.finish ⟨{ (a.workEnded l).laneAnswered l y.turnOff ref with
      hm := ((a.workEnded l).laneAnswered l y.turnOff ref).healthNow },
      outcomeEvents f .noReply 0 ++ [laneStateEvent s l .off 2], health ++ healthChange a
        { (a.workEnded l).laneAnswered l y.turnOff ref with
          hm := ((a.workEnded l).laneAnswered l y.turnOff ref).healthNow }⟩ := by
    refine (congrArg (fun w : Work => (((w.on fun s => s.workEnded l).laneChange l w.s.lanes[l].turnOff .disabled).on
      fun t => t.complete ref .ok (pack [(t.lanes[l].state.code, 0)])).finish) settles).trans ?_
    show (Work.on (Work.laneChange ⟨a.workEnded l, outcomeEvents f .noReply 0, health⟩ l a.lanes[l].turnOff .disabled)
      _).finish = _
    rw [here, Work.laneChange_answered]
    have ehm : (a.workEnded l).hm = a.hm := (congrArg State.hm ended :)
    have change := healthChange_before { (a.workEnded l).laneAnswered l y.turnOff ref with
      hm := ((a.workEnded l).laneAnswered l y.turnOff ref).healthNow } (congrArg HealthMonitor.degraded ehm)
    exact congrArg₂ (fun ev hs => (Work.mk { (a.workEnded l).laneAnswered l y.turnOff ref with
      hm := ((a.workEnded l).laneAnswered l y.turnOff ref).healthNow } (outcomeEvents f .noReply 0 ++ [ev])
      (health ++ hs)).finish) event change
  have squiet : SendsNoFrame s a := by
    have outputs : u.outputs = s.outputs := (congrArg State.outputs left :)
    unfold SendsNoFrame at quiet ⊢
    rwa [outputs] at quiet
  rw [← total] at level changes tlanes rings' slotQueue' buffers' sent
  refine ⟨?_, fun m hm => ?_, level, fun law => ?_, rings'.trans rings, ((squiet.trans quiet').trans quiet'').trans sent,
    slotQueue'.trans slotQueue, buffers'.trans buffers⟩
  · exact (congrArg (fun v : Vector Lane 8 => v[l]) tlanes).trans (a.setLane_here l y.turnOff)
  · refine (congrArg (fun v : Vector Lane 8 => v[m]) tlanes).trans ((State.setLane_other _ _ _ _ hm).trans ?_)
    rw [lanesAt, if_neg hm]
  · have handles : (u.activeEntries.map Entry.handle).Nodup := by
      rw [State.activeEntries, uactive]
      exact law.2.2
    refine changes ?_ ((State.afterOutcome_Settled handles f .noReply true).of_before uactive umonitor upairs)
    rw [show health = _ from settledHealth_eq handles f .noReply true]
    unfold settledHealth reachedBy healthChange
    rw [uactive, umonitor]

end Sys2Proof.Machine

namespace Sys2Proof.Machine

set_option Elab.async false

/-! ### LANE CONFIGURE, case by case (R60 to R62) -/

theorem rateOfCode_none {n : Nat} (h : n ∉ [1, 2, 3]) : rateOfCode n = none := by
  unfold rateOfCode
  split <;> simp at h ⊢

theorem State.laneInUse_iff {s : State} {l : LaneId} : s.laneInUse l = true ↔
    (∃ a ∈ s.active, a.entry.kind ≠ .marker ∧ a.entry.lane = l) ∨
      (s.pendingCommit ≠ none ∧ ∃ e ∈ s.edit, e.kind ≠ .marker ∧ e.lane = l) := by
  simp only [State.laneInUse, Bool.or_eq_true, List.any_eq_true, State.mem_committing, Entry.namesLane, Bool.and_eq_true,
    decide_eq_true_eq, Kind.isLane_iff]
  refine or_congr .rfl ⟨?_, ?_⟩
  · rintro ⟨e, ⟨hc, he⟩, hk⟩
    exact ⟨hc, e, he, hk⟩
  · rintro ⟨hc, e, he, hk⟩
    exact ⟨e, ⟨hc, he⟩, hk⟩

section
variable {r : CommandRecord} {ref : CmdRef} {s : State} {l : LaneId} {rate : LaneRate}

theorem laneConfigureOwner_badField (h : 7 < recordByte r 8 ∨ 1 < recordByte r 9 ∨ recordByte r 10 ∉ [1, 2, 3] ∨
    1 < recordByte r 11 ∨ recordByte r 12 = 0 ∨ 1 < recordByte r 13 ∨ reservedZero r [(8, 13)] = false) :
    laneConfigureOwner r ref s = s.complete ref .badField 0 := by
  unfold laneConfigureOwner
  split
  · rename_i l enable rate auto stale hl he hr ha hs
    refine if_pos ?_
    have lane : recordByte r 8 ≤ 7 := by
      by_contra hn
      rw [laneOfByte_none (by omega)] at hl
      nomatch hl
    have flag {n : Nat} {b : Bool} (hb : flagByte n = some b) : ¬ 1 < n := fun hn => by
      rw [flagByte_eq_none.2 hn] at hb
      nomatch hb
    obtain h | h | h | h | h | h | h := h
    · omega
    · exact absurd h (flag he)
    · rw [rateOfCode_none h] at hr
      nomatch hr
    · exact absurd h (flag ha)
    · exact .inl h
    · exact absurd h (flag hs)
    · exact .inr h
  · rfl

variable (hl : recordByte r 8 = l.val) (he : recordByte r 9 ≤ 1) (hr : rateOfCode (recordByte r 10) = some rate)
  (ha : recordByte r 11 ≤ 1) (hd : 1 ≤ recordByte r 12) (hs : recordByte r 13 ≤ 1)
  (hz : reservedZero r [(8, 13)] = true)
include hl he hr ha hd hs hz

theorem laneConfigureOwner_inUse (hn : rate ≠ s.lanes[l].rate) (hu : s.laneInUse l = true) :
    laneConfigureOwner r ref s = s.complete ref .inUse 0 := by
  unfold laneConfigureOwner
  rw [laneOfByte_some hl, flagByte_of_le he, hr, flagByte_of_le ha, flagByte_of_le hs]
  exact (if_neg (by rw [hz]; simp; omega)).trans (if_pos ⟨hn, hu⟩)

theorem laneConfigureOwner_ok (hn : rate = s.lanes[l].rate ∨ ¬ s.laneInUse l = true) :
    laneConfigureOwner r ref s =
      ((s.work.configure l (decide (recordByte r 9 = 1)) rate (decide (recordByte r 11 = 1)) (recordByte r 12)
        (decide (recordByte r 13 = 1))).on fun t => t.complete ref .ok (pack [(t.lanes[l].state.code, 0)])).finish := by
  unfold laneConfigureOwner
  rw [laneOfByte_some hl, flagByte_of_le he, hr, flagByte_of_le ha, flagByte_of_le hs]
  refine (if_neg (by rw [hz]; simp; omega)).trans (if_neg ?_)
  rintro ⟨h1, h2⟩
  obtain hn | hn := hn
  · exact h1 hn
  · exact hn h2

end

end Sys2Proof.Machine

namespace Sys2Proof.Machine

set_option Elab.async false

/-- What LANE CONFIGURE keeps beside its lane (R60, R61). -/
def ConfigureKeeps (s t : State) (l : LaneId) : Prop :=
  OtherLanesKept s t l ∧ t.activeEntries = s.activeEntries ∧ t.edit = s.edit ∧ t.session = s.session ∧
    SendsNoFrame s t ∧ t.slotQueue = s.slotQueue ∧ t.buffers = s.buffers ∧ t.sc = s.sc ∧ t.dev = s.dev

/-- Tables, rings and matrix records are as they were. -/
def TablesKept (s t : State) : Prop :=
  t.active = s.active ∧ t.rings = s.rings ∧ t.hm.openRecord = s.hm.openRecord ∧ t.hm.closed = s.hm.closed

theorem LaneMoved.configures {s t : State} {l : LaneId} {z : Lane} (h : LaneMoved s t l z) (hq : SendsNoFrame s t) :
    ConfigureKeeps s t l :=
  ⟨h.others, (congrArg (fun u : State => u.activeEntries) h :), (congrArg State.edit h :), (congrArg State.session h :), hq,
    (congrArg State.slotQueue h :), (congrArg State.buffers h :), (congrArg State.sc h :), (congrArg State.dev h :)⟩

theorem LaneMoved.tables {s t : State} {l : LaneId} {z : Lane} (h : LaneMoved s t l z)
    (ho : t.hm.openRecord = s.hm.openRecord) (hc : t.hm.closed = s.hm.closed) : TablesKept s t :=
  ⟨(congrArg State.active h :), (congrArg State.rings h :), ho, hc⟩

/-- LANE CONFIGURE leaves the lane `z` without a change of state: its answer is all that the part does (R62). -/
def SettingsTaken (s t : State) (l : LaneId) (ref : CmdRef) (z : Lane) : Prop :=
  t.lanes[l] = z ∧ t.ew = s.ew ∧ t.hm = s.hm ∧ Hands s t [⟨ref, .ok, BitVec.ofNat 32 z.state.code⟩] ∧ TablesKept s t ∧
    ConfigureKeeps s t l

/-- LANE CONFIGURE leaves the lane `z` in a new state: LANE_STATE, the level and the answer (R61, R82). -/
def StateTaken (s t : State) (l : LaneId) (ref : CmdRef) (z : Lane) (cause : Nat) : Prop :=
  t.lanes[l] = z ∧ (Posts s t [laneStateEvent s l z.state cause] (healthChange s t) ∧ Evaluated s t) ∧
    Hands s t [⟨ref, .ok, BitVec.ofNat 32 z.state.code⟩] ∧ TablesKept s t ∧ ConfigureKeeps s t l

/-- The machine after LANE CONFIGURE has answered. -/
def Work.answerLane (w : Work) (l : LaneId) (ref : CmdRef) : State :=
  (w.on fun t => t.complete ref .ok (pack [(t.lanes[l].state.code, 0)])).finish

section
variable {s : State} {l : LaneId} {ref : CmdRef}

theorem Work.settings_finish (z : Lane) : SettingsTaken s ((s.setLane l z).work.answerLane l ref) l ref z := by
  have ends : (s.setLane l z).work.answerLane l ref = s.laneAnswered l z ref := by
    refine (State.postAll_nil _).trans ?_
    show (s.setLane l z).complete ref .ok (pack [((s.setLane l z).lanes[l].state.code, 0)]) = _
    rw [pack_single, State.setLane_here]
    rfl
  obtain ⟨ps, os, shape⟩ := s.laneAnswered_shape l z ref
  obtain ⟨hands, quiet⟩ := s.laneAnswered_keeps l z ref
  rw [← ends] at shape hands quiet
  generalize (s.setLane l z).work.answerLane l ref = t at shape hands quiet
  have moved : LaneMoved s t l z := by
    subst shape
    rfl
  have hm : t.hm = s.hm := (congrArg State.hm shape :)
  exact ⟨moved.lane, (congrArg State.ew shape :), hm, hands,
    moved.tables (congrArg HealthMonitor.openRecord hm) (congrArg HealthMonitor.closed hm), moved.configures quiet⟩

theorem Work.change_finish (hd : s.dev ≠ .fatal) {y z : Lane} (hy : y.state = s.lanes[l].state) (cause : LaneCause) :
    StateTaken s (((s.setLane l y).work.laneChange l z cause).answerLane l ref) l ref z cause.code := by
  obtain ⟨posts, level, hands, moved, quiet⟩ := Work.answered_finish (s := s) (w := (s.setLane l y).work) l z cause ref
    hd rfl rfl rfl rfl (by rw [show (s.setLane l y).work.s.lanes[l] = y from State.setLane_here ..]; exact hy)
  have here : LaneMoved s _ l z := moved.of_before (y := y) (ps := s.pairs) (os := s.outputs) rfl
  have kept := level
  obtain ⟨-, -, -, -, opened, closed⟩ := kept
  exact ⟨here.lane, ⟨posts, level⟩, hands, here.tables opened closed, here.configures quiet⟩

end

end Sys2Proof.Machine

namespace Sys2Proof.Machine

set_option Elab.async false

/-! ### What the new settings do to the state of the lane (R61, R62) -/

theorem Lane.configured_state (x : Lane) (rate : LaneRate) (auto : Bool) (delay : Nat) (stale : Bool) :
    (x.configured rate auto delay stale).state = x.state := rfl

theorem Lane.configured_timer {x : Lane} (h : x.state ≠ .faulted) (rate : LaneRate) (auto : Bool) (delay : Nat)
    (stale : Bool) : (x.configured rate auto delay stale).retrainTimer = x.retrainTimer := if_neg h

theorem Lane.configured_faulted {x : Lane} (h : x.state = .faulted) (rate : LaneRate) (auto : Bool) (delay : Nat)
    (stale : Bool) : (x.configured rate auto delay stale).retrainTimer = retrainSetting x auto delay := if_pos h

theorem retrainSetting_off (x : Lane) (delay : Nat) : retrainSetting x false delay = none := rfl

theorem retrainSetting_starts {x : Lane} (ha : x.autoRetrain = false) (ht : x.retrainTimer = none) (delay : Nat) :
    retrainSetting x true delay = some (delay * 100000) := (if_neg nofun).trans (if_pos ⟨ha, ht⟩)

theorem retrainSetting_keeps {x : Lane} (h : x.autoRetrain = true ∨ x.retrainTimer ≠ none) (delay : Nat) :
    retrainSetting x true delay = x.retrainTimer := by
  refine (if_neg nofun).trans (if_neg ?_)
  rintro ⟨ha, ht⟩
  obtain h | h := h
  · rw [ha] at h
    nomatch h
  · exact h ht

theorem Lane.configured_eq {x : Lane} (h : x.state ≠ .faulted) (rate : LaneRate) (auto : Bool) (delay : Nat)
    (stale : Bool) : x.configured rate auto delay stale =
      { x with rate := rate, autoRetrain := auto, retrainDelay := delay, staleNotify := stale } := by
  unfold Lane.configured
  rw [if_neg h]

theorem SettingsTaken.of_taken {s t : State} {l : LaneId} {ref : CmdRef} {z : Lane}
    (h : SettingsTaken s.taken t l ref z) : SettingsTaken s t l ref z := h

theorem StateTaken.of_taken {s t : State} {l : LaneId} {ref : CmdRef} {z : Lane} {cause : Nat}
    (h : StateTaken s.taken t l ref z cause) : StateTaken s t l ref z cause := h

section
variable {s : State} {l : LaneId} {rate : LaneRate} {auto stale : Bool} {delay : Nat}

theorem Work.configure_enables (h : s.lanes[l].state = .off) :
    s.work.configure l true rate auto delay stale =
      (s.setLane l (s.lanes[l].configured rate auto delay stale)).work.laneChange l
        (s.lanes[l].configured rate auto delay stale).beginRun .enabled := by
  unfold Work.configure
  dsimp only
  rw [show s.work.s.lanes[l].state = .off from h]
  rfl

theorem Work.configure_stays_off (h : s.lanes[l].state = .off) :
    s.work.configure l false rate auto delay stale =
      (s.setLane l (s.lanes[l].configured rate auto delay stale)).work := by
  unfold Work.configure
  dsimp only
  rw [show s.work.s.lanes[l].state = .off from h]
  rfl

theorem Work.configure_disables (h : s.lanes[l].state ≠ .off) :
    s.work.configure l false rate auto delay stale =
      (s.setLane l (s.lanes[l].configured rate auto delay stale)).work.disable l := by
  unfold Work.configure
  dsimp only
  split
  · rename_i ho _
    exact absurd ho h
  · rename_i ho _
    exact absurd ho h
  · rfl
  · contradiction
  · contradiction

theorem Work.configure_same_rate (h : s.lanes[l].state ≠ .off) (hr : rate = s.lanes[l].rate) :
    s.work.configure l true rate auto delay stale =
      (s.setLane l (s.lanes[l].configured rate auto delay stale)).work := by
  unfold Work.configure
  dsimp only
  split
  · rename_i ho _
    exact absurd ho h
  · rename_i ho _
    exact absurd ho h
  · contradiction
  · exact if_pos hr
  · exact if_pos hr

theorem Work.configure_retrains (h : s.lanes[l].state = .training) (hr : rate ≠ s.lanes[l].rate) :
    s.work.configure l true rate auto delay stale =
      (s.setLane l (s.lanes[l].configured rate auto delay stale).beginRun).work := by
  unfold Work.configure
  dsimp only
  rw [show s.work.s.lanes[l].state = .training from h]
  refine (if_neg hr).trans ?_
  exact congrArg State.work (State.setLane_setLane ..)

theorem Work.configure_new_rate (h : s.lanes[l].state ≠ .off) (ht : s.lanes[l].state ≠ .training)
    (hr : rate ≠ s.lanes[l].rate) :
    s.work.configure l true rate auto delay stale =
      (s.setLane l (s.lanes[l].configured rate auto delay stale)).work.laneChange l
        (s.lanes[l].configured rate auto delay stale).beginRun .rateChange := by
  unfold Work.configure
  dsimp only
  split
  · rename_i ho _
    exact absurd ho h
  · rename_i ho _
    exact absurd ho h
  · contradiction
  · rename_i ho _
    exact absurd ho ht
  · exact if_neg hr

end

/-- What disabling a lane does with no scheduled exchange to settle, after the completions `cs` of what it abandons. -/
def Disabled (s t : State) (l : LaneId) (ref : CmdRef) (z : Lane) (cs : List Completion) : Prop :=
  t.lanes[l] = z.turnOff ∧ Hands s t (cs ++ z.ended ++ [⟨ref, .ok, BitVec.ofNat 32 LaneState.off.code⟩]) ∧
    (Posts s t [laneStateEvent s l .off 2] (healthChange s t) ∧ Evaluated s t) ∧ TablesKept s t ∧ ConfigureKeeps s t l

/-- What disabling a lane does with the scheduled exchange of `f` to settle; `y` is the lane before (R36, R61). -/
def DisableSettles (s t : State) (l : LaneId) (ref : CmdRef) (y : Lane) (f : Firing) : Prop :=
  t.lanes[l] = Lane.turnOff { y with inFlight := none } ∧ OtherLanesKept s t l ∧ t.healthNow = t.hm ∧
    (tableLaw s.activeEntries → SettlesAndChanges s t f .noReply (laneStateEvent s l .off 2)
      (y.ended ++ [⟨ref, .ok, BitVec.ofNat 32 LaneState.off.code⟩])) ∧
    t.rings = (s.returnSlot f).rings ∧ SendsNoFrame s t ∧ t.slotQueue = s.slotQueue ∧ t.buffers = s.buffers

section
variable {s v : State} {l : LaneId} {y z : Lane} {ref : CmdRef}

/-- Disabling where ending the exchange leaves `v`, with the lane `z` that it leaves. -/
theorem Work.disable_answered {ps : Vector Pair 4} {os : List Output} {cs : List Completion} (hd : s.dev ≠ .fatal)
    (ha : (s.setLane l y).work.abandon l = v.work) (hv : v = { s.setLane l z with pairs := ps, outputs := os })
    (hl : z.state = s.lanes[l].state) (hands : Hands s v cs)
    (serves : ∀ p : PairId, v.pairs[p].serves = s.pairs[p].serves) (quiet : SendsNoFrame s v) :
    Disabled s (((s.setLane l y).work.disable l).answerLane l ref) l ref z cs := by
  have lane : v.work.s.lanes[l] = z := by
    show v.lanes[l] = z
    rw [show v.lanes = (s.setLane l z).lanes from (congrArg State.lanes hv :)]
    exact State.setLane_here ..
  have ends : (s.setLane l y).work.disable l = (v.work.on fun s => s.workEnded l).laneChange l z.turnOff .disabled := by
    rw [Work.disable_eq, ha, lane]
  rw [ends]
  obtain ⟨posts, level, all, moved, noFrame⟩ := Work.disable_finish ref hv hd hl hands serves quiet
  have kept := level
  obtain ⟨-, -, -, -, opened, closed⟩ := kept
  exact ⟨moved.lane, all, ⟨posts, level⟩, moved.tables opened closed, moved.configures noFrame⟩

variable (hd : s.dev ≠ .fatal) (hl : y.state = s.lanes[l].state)
include hd hl

/-- Disabling with nothing to end: no exchange, or one that waits for its slot write. -/
theorem Work.disable_leaves (ha : (s.setLane l y).work.abandon l = (s.setLane l y).work) :
    Disabled s (((s.setLane l y).work.disable l).answerLane l ref) l ref y [] :=
  Work.disable_answered hd ha rfl hl (fun _ _ => (List.append_nil _).symm) (fun _ => rfl) (.refl rfl)

variable {x : Exchange} (hx : y.inFlight = some x) (hn : x.settling = false)
include hx hn

theorem Work.disable_probe {b : Bool} (hsrc : x.source = .probe b) :
    Disabled s (((s.setLane l y).work.disable l).answerLane l ref) l ref { y with inFlight := none } [] :=
  Work.disable_answered hd (Work.abandon_probe hx hn hsrc) rfl hl (fun _ _ => (List.append_nil _).symm) (fun _ => rfl)
    (.refl rfl)

theorem Work.disable_host {e : HostExchange} (hsrc : x.source = .host e) :
    Disabled s (((s.setLane l y).work.disable l).answerLane l ref) l ref { y with inFlight := none }
      [⟨e.ref, .exchangeFailed, BitVec.ofNat 32 (5 + 256 * x.sequence.toNat)⟩] := by
  obtain ⟨ps, os, shape⟩ := s.complete_shape e.ref .exchangeFailed (BitVec.ofNat 32 (5 + 256 * x.sequence.toNat))
  have hands := s.complete_Hands e.ref .exchangeFailed (BitVec.ofNat 32 (5 + 256 * x.sequence.toNat))
  have quiet := s.complete_noFrame e.ref .exchangeFailed (BitVec.ofNat 32 (5 + 256 * x.sequence.toNat))
  refine Work.disable_answered (ps := ps) (os := os) hd (Work.abandon_host hx hn hsrc) ?_ hl hands
    (fun p => State.complete_keeps_serves s e.ref .exchangeFailed _ p) quiet
  rw [shape]
  rfl

/-- Disabling with a scheduled exchange to settle (R36). -/
theorem Work.disable_settles {f : Firing} (hsrc : x.source = .scheduled f) :
    DisableSettles s (((s.setLane l y).work.disable l).answerLane l ref) l ref y f := by
  have same : (s.setLane l y).work.disable l = ((Work.settle ⟨(s.returnSlot f).setLane l { y with inFlight := none }, [], []⟩
      f .noReply 0 true).on fun s => s.workEnded l).laneChange l
        (Work.settle ⟨(s.returnSlot f).setLane l { y with inFlight := none }, [], []⟩ f .noReply 0 true).s.lanes[l].turnOff
        .disabled := by
    rw [Work.disable_eq, Work.abandon_scheduled hx hn hsrc]
  rw [same]
  exact Work.disable_scheduled (s := s) (l := l) (y := { y with inFlight := none }) (f := f) ref hd hl

end

/-- What LANE CONFIGURE with enable 0 does to a lane that is not OFF, by what is in flight (R36, R61, R80): `y` is the lane
with its new settings, `off` what it becomes once the exchange that stays is known, `ended` what its own work completes. -/
def DisableLaw (s t : State) (l : LaneId) (off : Option Exchange → Lane) (ended : List Completion) (answer : Completion) :
    Prop :=
  ((s.lanes[l].inFlight = none → t.lanes[l] = off none ∧ Hands s t (ended ++ [answer])) ∧
    (∀ x, s.lanes[l].inFlight = some x → x.settling = true →
      t.lanes[l] = off (some x) ∧ Hands s t (ended ++ [answer])) ∧
    (∀ x b, s.lanes[l].inFlight = some x → x.settling = false → x.source = .probe b →
      t.lanes[l] = off none ∧ Hands s t (ended ++ [answer])) ∧
    (∀ x e, s.lanes[l].inFlight = some x → x.settling = false → x.source = .host e →
      t.lanes[l] = off none ∧ Hands s t ([⟨e.ref, .exchangeFailed, BitVec.ofNat 32 (5 + 256 * x.sequence.toNat)⟩] ++
        ended ++ [answer])) ∧
    (∀ x f, s.lanes[l].inFlight = some x → x.settling = false → x.source = .scheduled f → tableLaw s.activeEntries →
      t.lanes[l] = off none ∧ t.healthNow = t.hm ∧
      SettlesAndChanges s t f .noReply (laneStateEvent s l .off 2) (ended ++ [answer]) ∧
      (f.kind = .fetch ∨ f.kind = .swap → t.rings[f.ring] = { s.rings[f.ring] with
        reserved := (s.rings[f.ring]).reserved - 1 }) ∧
      (f.kind = .send ∨ f.kind = .probe → t.rings = s.rings) ∧
      (∀ r : RingId, r ≠ f.ring → t.rings[r] = s.rings[r])) ∧
    ((∀ x f, s.lanes[l].inFlight = some x → x.source = .scheduled f → x.settling = true) →
      Posts s t [laneStateEvent s l .off 2] (healthChange s t) ∧ Evaluated s t)) ∧
  ((∀ x f, s.lanes[l].inFlight = some x → x.source = .scheduled f → x.settling = true) → TablesKept s t) ∧
  t.lanes[l].state = .off ∧ ConfigureKeeps s t l

/-- The law of disabling, case by case of what is in flight. -/
theorem Work.disable_law {s t : State} {l : LaneId} {y : Lane} {ref : CmdRef}
    (ht : t = ((s.setLane l y).work.disable l).answerLane l ref) (hd : s.dev ≠ .fatal)
    (hl : y.state = s.lanes[l].state) (hf : y.inFlight = s.lanes[l].inFlight) (quiet : Quiet s t) :
    DisableLaw s t l (fun x => Lane.turnOff { y with inFlight := x }) y.ended
      ⟨ref, .ok, BitVec.ofNat 32 LaneState.off.code⟩ := by
  unfold DisableLaw
  rw [← hf]
  cases hx : y.inFlight with
  | none =>
    have ends : Disabled s t l ref y [] :=
      ht ▸ Work.disable_leaves hd hl (Work.abandon_none hx)
    clear ht
    obtain ⟨lane, hands, changes, tables, keeps⟩ := ends
    have here : t.lanes[l] = Lane.turnOff { y with inFlight := none } := by
      rw [lane, ← hx]
    exact ⟨⟨fun _ => ⟨here, hands⟩, (fun _ h => nomatch h), (fun _ _ h => nomatch h), (fun _ _ h => nomatch h),
      (fun _ _ h => nomatch h), fun _ => changes⟩, fun _ => tables,
      congrArg Lane.state here, keeps⟩
  | some x =>
    by_cases hset : x.settling = true
    · have ends : Disabled s t l ref y [] :=
        ht ▸ Work.disable_leaves hd hl (Work.abandon_settling hx hset)
      clear ht
      obtain ⟨lane, hands, changes, tables, keeps⟩ := ends
      have here : t.lanes[l] = Lane.turnOff { y with inFlight := some x } := by
        rw [lane, ← hx]
      have busy {z : Exchange} (hz : some x = some z) : ¬ z.settling = false := by
        rw [← Option.some.inj hz, hset]
        exact nofun
      exact ⟨⟨(fun h => nomatch h), fun z hz _ => ⟨Option.some.inj hz ▸ here, hands⟩, fun z b hz hn => absurd hn (busy hz),
        fun z b hz hn => absurd hn (busy hz), fun z b hz hn => absurd hn (busy hz), fun _ => changes⟩, fun _ => tables,
        congrArg Lane.state here, keeps⟩
    · have free : x.settling = false := Bool.eq_false_iff.2 hset
      have goes {z : Exchange} (hz : some x = some z) : ¬ z.settling = true := Option.some.inj hz ▸ hset
      have sent {z : Exchange} {o : ExchangeSource} (hz : some x = some z) (ho : z.source = o) : x.source = o :=
        Option.some.inj hz ▸ ho
      cases hsrc : x.source with
      | probe b =>
        have ends : Disabled s t l ref { y with inFlight := none } [] :=
          ht ▸ Work.disable_probe hd hl hx free hsrc
        clear ht
        obtain ⟨lane, hands, changes, tables, keeps⟩ := ends
        exact ⟨⟨(fun h => nomatch h), fun z hz hn => absurd hn (goes hz), fun z b hz _ _ => ⟨lane, hands⟩,
          (fun z e hz _ ho => nomatch hsrc.symm.trans (sent hz ho)), (fun z f hz _ ho => nomatch hsrc.symm.trans (sent hz ho)),
          fun _ => changes⟩, fun _ => tables, congrArg Lane.state lane, keeps⟩
      | host e =>
        have ends : Disabled s t l ref { y with inFlight := none }
            [⟨e.ref, .exchangeFailed, BitVec.ofNat 32 (5 + 256 * x.sequence.toNat)⟩] :=
          ht ▸ Work.disable_host hd hl hx free hsrc
        clear ht
        obtain ⟨lane, hands, changes, tables, keeps⟩ := ends
        have fails {z : Exchange} {e' : HostExchange} (hz : some x = some z) (ho : z.source = .host e') :
            t.lanes[l] = Lane.turnOff { y with inFlight := none } ∧ Hands s t
              ([⟨e'.ref, .exchangeFailed, BitVec.ofNat 32 (5 + 256 * z.sequence.toNat)⟩] ++ y.ended ++
                [⟨ref, .ok, BitVec.ofNat 32 LaneState.off.code⟩]) := by
          obtain rfl := ExchangeSource.host.inj (hsrc.symm.trans (sent hz ho))
          obtain rfl := Option.some.inj hz
          exact ⟨lane, hands⟩
        exact ⟨⟨(fun h => nomatch h), fun z hz hn => absurd hn (goes hz), (fun z b hz _ ho => nomatch hsrc.symm.trans (sent hz ho)),
          fun z e' hz _ ho => fails hz ho, (fun z f hz _ ho => nomatch hsrc.symm.trans (sent hz ho)), fun _ => changes⟩,
          fun _ => tables, congrArg Lane.state lane, keeps⟩
      | scheduled f =>
        have ends : DisableSettles s t l ref y f := by
          rw [ht]
          exact Work.disable_settles hd hl hx free hsrc
        clear ht
        obtain ⟨lane, others, level, settles, rings, noFrame, slotQueue, buffers⟩ := ends
        have due (h : ∀ (z : Exchange) (f : Firing), some x = some z → z.source = .scheduled f → z.settling = true) :
            False := hset (h x f rfl hsrc)
        have settled {z : Exchange} {f' : Firing} (hz : some x = some z) (ho : z.source = .scheduled f') : f' = f :=
          (ExchangeSource.scheduled.inj (hsrc.symm.trans (sent hz ho))).symm
        refine ⟨⟨(fun h => nomatch h), fun z hz hn => absurd hn (goes hz), (fun z b hz _ ho => nomatch hsrc.symm.trans (sent hz ho)),
          (fun z e hz _ ho => nomatch hsrc.symm.trans (sent hz ho)), fun z f' hz _ ho law => ?_, fun h => (due h).elim⟩,
          fun h => (due h).elim, congrArg Lane.state lane,
          ⟨others, quiet.entries, quiet.edit, quiet.session, noFrame, slotQueue, buffers, quiet.sc, quiet.dev⟩⟩
        rw [settled hz ho, rings]
        exact ⟨lane, level, settles law, s.returnSlot_rings f⟩

theorem DisableLaw.of_taken {s t : State} {l : LaneId} {off : Option Exchange → Lane} {ended : List Completion}
    {answer : Completion} (h : DisableLaw s.taken t l off ended answer) : DisableLaw s t l off ended answer := h

end Sys2Proof.Machine

namespace Sys2Proof.Machine

set_option Elab.async false

/-- The lane with the five settings of a LANE CONFIGURE record (R60). -/
def Held.laneSettings (h : Held) (rate : LaneRate) (x : Lane) : Lane :=
  x.configured rate (decide (recordByte h.record 11 = 1)) (recordByte h.record 12) (decide (recordByte h.record 13 = 1))

/-- What LANE CONFIGURE makes of a held record once its checks have passed. -/
def State.configures (s : State) (h : Held) (l : LaneId) (rate : LaneRate) (enable : Bool) : Work :=
  s.taken.work.configure l enable rate (decide (recordByte h.record 11 = 1)) (recordByte h.record 12)
    (decide (recordByte h.record 13 = 1))

section
variable {s : State} {h : Held} {l : LaneId} {rate : LaneRate}

theorem State.configures_enables (h0 : s.lanes[l].state = .off) :
    s.configures h l rate true = (s.taken.setLane l (h.laneSettings rate s.lanes[l])).work.laneChange l
      (h.laneSettings rate s.lanes[l]).beginRun .enabled := Work.configure_enables (s := s.taken) h0

theorem State.configures_stays_off (h0 : s.lanes[l].state = .off) :
    s.configures h l rate false = (s.taken.setLane l (h.laneSettings rate s.lanes[l])).work :=
  Work.configure_stays_off (s := s.taken) h0

theorem State.configures_disables (h0 : s.lanes[l].state ≠ .off) :
    s.configures h l rate false = (s.taken.setLane l (h.laneSettings rate s.lanes[l])).work.disable l :=
  Work.configure_disables (s := s.taken) h0

theorem State.configures_same_rate (h0 : s.lanes[l].state ≠ .off) (hr : rate = s.lanes[l].rate) :
    s.configures h l rate true = (s.taken.setLane l (h.laneSettings rate s.lanes[l])).work :=
  Work.configure_same_rate (s := s.taken) h0 hr

theorem State.configures_retrains (h0 : s.lanes[l].state = .training) (hr : rate ≠ s.lanes[l].rate) :
    s.configures h l rate true = (s.taken.setLane l (h.laneSettings rate s.lanes[l]).beginRun).work :=
  Work.configure_retrains (s := s.taken) h0 hr

theorem State.configures_new_rate (h0 : s.lanes[l].state ≠ .off) (ht : s.lanes[l].state ≠ .training)
    (hr : rate ≠ s.lanes[l].rate) :
    s.configures h l rate true = (s.taken.setLane l (h.laneSettings rate s.lanes[l])).work.laneChange l
      (h.laneSettings rate s.lanes[l]).beginRun .rateChange := Work.configure_new_rate (s := s.taken) h0 ht hr

end

/-- Settles O25: the refusals, then one case for each state of the lane, each enable and each rate, and with enable 0 one
for each kind of exchange that disabling ends. -/
theorem laneConfigureSetsTheLane : Obligations.LaneConfigureSetsTheLane := by
  unfold Obligations.LaneConfigureSetsTheLane
  refine ⟨fun s h hh h0 hbad => .of_admin rfl hh h0 (laneConfigureOwner_badField hbad),
    fun s h l rate hh h0 hl he hr ha hd hs hz => ?_⟩
  intro inUse
  refine ⟨fun hn hu => .of_admin rfl hh h0
      (laneConfigureOwner_inUse (s := s.taken) hl he hr ha hd hs hz hn (State.laneInUse_iff.2 hu)), fun hfree => ?_⟩
  intro abandoned enable auto before set run refused cancelled off
  have alive : s.taken.dev ≠ .fatal := State.heldCommand_not_fatal (s := s) hh
  have owner := laneConfigureOwner_ok (ref := h.ref) (s := s.taken) hl he hr ha hd hs hz
    (hfree.imp_right fun hn hu => hn (State.laneInUse_iff.1 hu))
  obtain ⟨y, hy⟩ : ∃ y, h.laneSettings rate s.lanes[l] = y := ⟨_, rfl⟩
  have begun : y.beginRun = run := by
    rw [← hy]
    rfl
  have same (hf : before.state ≠ .faulted) : y = set := hy ▸ Lane.configured_eq hf ..
  have state : y.state = s.taken.lanes[l].state := by
    rw [← hy]
    rfl
  by_cases on : enable
  · rw [decide_eq_true (p := recordByte h.record 9 = 1) on] at owner
    have runs : exec .laneConfigure s = .next ((s.configures h l rate true).answerLane l h.ref) :=
      exec_admin rfl hh h0 owner
    by_cases hoff : before.state = .off
    · rw [State.configures_enables hoff, hy, begun] at runs
      obtain ⟨t, steps, lane, changes, hands, tables, keeps⟩ :
          ∃ t, exec .laneConfigure s = .next t ∧ StateTaken s t l h.ref run 1 :=
        ⟨_, runs, (Work.change_finish alive state .enabled).of_taken⟩
      refine ⟨t, steps, ?_⟩
      rw [lane]
      exact ⟨fun _ _ => ⟨rfl, changes.1, changes.2, hands⟩, fun hn => absurd on hn, fun _ hn => absurd hoff hn,
        fun _ hn => absurd hoff hn, fun hn => absurd on hn, fun _ => tables, keeps⟩
    · by_cases hrate : rate = before.rate
      · rw [State.configures_same_rate hoff hrate, hy] at runs
        obtain ⟨t, steps, lane, ew, hm, hands, tables, keeps⟩ :
            ∃ t, exec .laneConfigure s = .next t ∧ SettingsTaken s t l h.ref y :=
          ⟨_, runs, (Work.settings_finish y).of_taken⟩
        refine ⟨t, steps, ?_⟩
        rw [lane]
        refine ⟨fun _ hn => absurd hn hoff, fun hn => absurd on hn, fun _ _ _ => ⟨ew, hm, hands, hy ▸ rfl, ?_, ?_⟩,
          fun _ _ hn => absurd hrate hn, fun hn => absurd on hn, fun _ => tables, keeps⟩
        · exact fun hf => hy ▸ Lane.configured_timer hf ..
        · intro hf
          have timer : y.retrainTimer = retrainSetting before (decide auto) (recordByte h.record 12) :=
            hy ▸ Lane.configured_faulted hf ..
          rw [timer]
          refine ⟨fun hn => ?_, fun hn ha ht => ?_, fun hn hk => ?_⟩
          · rw [decide_eq_false hn]
            exact retrainSetting_off ..
          · rw [decide_eq_true hn]
            exact retrainSetting_starts ha ht _
          · rw [decide_eq_true hn]
            exact retrainSetting_keeps hk _
      · by_cases htrain : before.state = .training
        · rw [State.configures_retrains htrain hrate, hy, begun] at runs
          obtain ⟨t, steps, lane, ew, hm, hands, tables, keeps⟩ :
              ∃ t, exec .laneConfigure s = .next t ∧ SettingsTaken s t l h.ref run :=
            ⟨_, runs, (Work.settings_finish run).of_taken⟩
          refine ⟨t, steps, ?_⟩
          rw [lane]
          exact ⟨fun _ hn => absurd hn hoff, fun hn => absurd on hn, fun _ _ hn => absurd hn hrate,
            fun _ _ _ => ⟨rfl, hands, fun _ => ⟨ew, hm⟩, fun hn => absurd htrain hn⟩, fun hn => absurd on hn,
            fun _ => tables, keeps⟩
        · rw [State.configures_new_rate hoff htrain hrate, hy, begun] at runs
          obtain ⟨t, steps, lane, changes, hands, tables, keeps⟩ :
              ∃ t, exec .laneConfigure s = .next t ∧ StateTaken s t l h.ref run 8 :=
            ⟨_, runs, (Work.change_finish alive state .rateChange).of_taken⟩
          refine ⟨t, steps, ?_⟩
          rw [lane]
          exact ⟨fun _ hn => absurd hn hoff, fun hn => absurd on hn, fun _ _ hn => absurd hn hrate,
            fun _ _ _ => ⟨rfl, hands, fun hn => absurd hn htrain, fun _ => changes⟩, fun hn => absurd on hn,
            fun _ => tables, keeps⟩
  · rw [decide_eq_false (p := recordByte h.record 9 = 1) on] at owner
    have runs : exec .laneConfigure s = .next ((s.configures h l rate false).answerLane l h.ref) :=
      exec_admin rfl hh h0 owner
    by_cases hoff : before.state = .off
    · rw [State.configures_stays_off hoff, hy] at runs
      obtain ⟨t, steps, lane, ew, hm, hands, tables, keeps⟩ :
          ∃ t, exec .laneConfigure s = .next t ∧ SettingsTaken s t l h.ref y :=
        ⟨_, runs, (Work.settings_finish y).of_taken⟩
      have quiet : y = set := same (by rw [hoff]; exact nofun)
      rw [quiet] at lane hands
      refine ⟨t, steps, ?_⟩
      rw [lane]
      exact ⟨fun hn => absurd hn on, fun _ _ => ⟨rfl, ew, hm, hands⟩, fun hn => absurd hn on, fun hn => absurd hn on,
        fun _ hn => absurd hoff hn, fun _ => tables, keeps⟩
    · rw [State.configures_disables hoff, hy] at runs
      have quiet := laneConfigureOwner_quiet h.record h.ref s.taken
      have lands : (fun x => Lane.turnOff { y with inFlight := x }) = off := by
        rw [← hy]
        rfl
      have flight : y.inFlight = s.taken.lanes[l].inFlight := by
        rw [← hy]
        rfl
      have ended : y.ended = refused ++ cancelled := by
        rw [← hy]
        rfl
      have parts : (s.configures h l rate false).answerLane l h.ref = laneConfigureOwner h.record h.ref s.taken :=
        owner.symm
      rw [State.configures_disables hoff, hy] at parts
      obtain ⟨t, steps, law, tables, lane, keeps⟩ : ∃ t, exec .laneConfigure s = .next t ∧
          DisableLaw s t l off (refused ++ cancelled) ⟨h.ref, .ok, BitVec.ofNat 32 LaneState.off.code⟩ :=
        ⟨_, runs, lands ▸ ended ▸ (Work.disable_law rfl alive state flight (parts ▸ quiet)).of_taken⟩
      refine ⟨t, steps, ?_⟩
      rw [lane]
      exact ⟨fun hn => absurd hn on, fun _ hn => absurd hn hoff, fun hn => absurd hn on, fun hn => absurd hn on,
        fun _ _ => law, fun hn => tables ((hn.resolve_left on).resolve_left hoff), keeps⟩

end Sys2Proof.Machine

/-! PROOFS. A taken edge (chapter 6): the controller's own part, the measurement, the swap, the matrix records and the
take-up of the cycle, and then the statements about edges. -/

namespace Sys2Proof.Machine

set_option Elab.async false

/-! ### The controller at an edge (R99, R104, R109, R111, R112) -/

/-- The controller after an edge has been taken, before its measurement is folded in: `after` is the sync state then. -/
def State.edgeSync (s : State) (own : Bool) (e : Edge) (after : SyncState) : TimeSync :=
  { (s.edgeTime e (decide (after = .locked))).sc with
    sync := after,
    role :=
      if own = true ∧ e.restart = true ∧ s.sc.role ≠ .leader then .leader
      else if own = false ∧ s.sc.role = .leader then .backup else s.sc.role,
    trimState :=
      if own = true ∧ e.restart = true ∧ s.sc.role ≠ .leader then .frozen
      else if own = false ∧ s.sc.role = .leader then trimAfterLeading s else s.sc.trimState,
    keptTrim := if own = true ∧ e.restart = true ∧ s.sc.role ≠ .leader then s.sc.trimState else s.sc.keptTrim,
    goodRun :=
      if (own = false ∧ s.sc.role = .leader) ∧ s.sc.trimState = .frozen ∧ s.sc.keptTrim = .suspended then 0
      else s.sc.goodRun,
    hold := s.sc.hold && own,
    resign := if own = false ∧ s.sc.hold = true then none else s.sc.resign }

/-- What the role of a taken edge posts, in cycle `e.count` (R104, R106, R121). -/
def State.edgeRoleEvents (s : State) (own : Bool) (e : Edge) : List Event :=
  if own = true ∧ e.restart = true ∧ s.sc.role ≠ .leader then
    [roleEvent s e.count .leader 1, trimEvent s e.count .frozen s.sc.trim]
  else if own then [] else stepDown s e.count (if s.sc.hold then 3 else 2)

/-- What the end of the resign hold at a taken edge hands (R111). -/
def State.edgeResigned (s : State) (own : Bool) (e : Edge) : List Completion :=
  if own = false ∧ s.sc.hold = true then
    s.sc.resign.toList.map fun ref => ⟨ref, .ok, pack [(e.rank, 0), (e.unit, 8)]⟩
  else []

section
variable {s : State} {e : Edge} {after : SyncState}

theorem State.edgeSync_elected (h : e.restart = true ∧ s.sc.role ≠ .leader) : s.edgeSync true e after =
    { (s.edgeTime e (decide (after = .locked))).sc with
      role := .leader, trimState := .frozen, keptTrim := s.sc.trimState, sync := after } := by
  unfold State.edgeSync
  simp only [h, if_true, ne_eq, not_false_eq_true, Bool.true_eq_false, false_and, if_false, and_true,
    Bool.and_true]
  rfl

theorem State.edgeSync_own (h : ¬ (e.restart = true ∧ s.sc.role ≠ .leader)) : s.edgeSync true e after =
    { (s.edgeTime e (decide (after = .locked))).sc with sync := after } := by
  unfold State.edgeSync
  simp only [h, true_and, Bool.true_eq_false, false_and, if_false, Bool.and_true]
  rfl

theorem State.edgeSync_other : s.edgeSync false e after =
    { (s.edgeTime e (decide (after = .locked))).sc with
      role := if s.sc.role = .leader then .backup else s.sc.role, trimState := trimAfterLeading s,
      goodRun := if s.sc.role = .leader ∧ s.sc.trimState = .frozen ∧ s.sc.keptTrim = .suspended then 0 else s.sc.goodRun,
      hold := false, resign := if s.sc.hold = true then none else s.sc.resign, sync := after } := by
  have trim : (if s.sc.role = .leader then trimAfterLeading s else s.sc.trimState) = trimAfterLeading s := by
    unfold trimAfterLeading
    split
    · rfl
    · rename_i h
      rw [if_neg fun hc => h hc.1]
  unfold State.edgeSync
  simp only [Bool.false_eq_true, false_and, if_false, true_and, Bool.and_false, trim]
  rfl

theorem State.edgeRoleEvents_elected (h : e.restart = true ∧ s.sc.role ≠ .leader) : s.edgeRoleEvents true e =
    [roleEvent s e.count .leader 1, trimEvent s e.count .frozen s.sc.trim] := if_pos ⟨rfl, h⟩

theorem State.edgeRoleEvents_own (h : ¬ (e.restart = true ∧ s.sc.role ≠ .leader)) : s.edgeRoleEvents true e = [] :=
  if_neg fun hc => h hc.2

theorem State.edgeRoleEvents_other : s.edgeRoleEvents false e = stepDown s e.count (if s.sc.hold then 3 else 2) := rfl

theorem State.edgeResigned_own : s.edgeResigned true e = [] := rfl

theorem State.edgeResigned_other : s.edgeResigned false e = if s.sc.hold = true then
    s.sc.resign.toList.map fun ref => ⟨ref, .ok, pack [(e.rank, 0), (e.unit, 8)]⟩ else [] := by
  unfold State.edgeResigned
  simp only [true_and]

end

theorem Work.demote_goodRun (w : Work) (cause : RoleCause) : (w.demote cause).s.sc.goodRun =
    if w.s.sc.role = .leader ∧ w.s.sc.trimState = .frozen ∧ w.s.sc.keptTrim = .suspended then 0 else w.s.sc.goodRun := by
  unfold Work.demote
  by_cases hr : w.s.sc.role = .leader
  · rw [if_neg (not_not.2 hr)]
    by_cases ht : w.s.sc.trimState = .frozen
    · simp [Work.setRole, Work.setTrimState, Work.on, Work.post, hr, ht]
    · simp [Work.setRole, Work.on, Work.post, ht]
  · simp [hr]

theorem State.endResign_serves (s : State) (status : Status) (result : Reg) (p : PairId) :
    (s.endResign status result).pairs[p].serves = s.pairs[p].serves := by
  unfold State.endResign
  cases s.sc.resign with
  | none => rfl
  | some ref => exact State.complete_keeps_serves _ ref status result p

/-- The role, the trim state and the resign hold as another unit's beacon ends them (R104, R109, R111). -/
theorem Work.edgeRole_other (w : Work) (e : Edge) :
    let t := w.edgeRole false e
    (∃ ps os, t.s = { w.s with
      sc := { w.s.sc with
        role := if w.s.sc.role = .leader then .backup else w.s.sc.role, trimState := trimAfterLeading w.s,
        goodRun := if w.s.sc.role = .leader ∧ w.s.sc.trimState = .frozen ∧ w.s.sc.keptTrim = .suspended then 0
          else w.s.sc.goodRun,
        hold := false, resign := if w.s.sc.hold = true then none else w.s.sc.resign },
      pairs := ps, outputs := os }) ∧
    Hands w.s t.s (if w.s.sc.hold = true then
      w.s.sc.resign.toList.map fun ref => ⟨ref, .ok, pack [(e.rank, 0), (e.unit, 8)]⟩ else []) ∧
    (∀ p : PairId, t.s.pairs[p].serves = w.s.pairs[p].serves) ∧
    t.others = w.others ++ stepDown w.s w.s.sc.cycleCount (if w.s.sc.hold then 3 else 2) ∧ t.health = w.health := by
  intro t
  let cause : RoleCause := if w.s.sc.hold then .resigned else .displaced
  obtain ⟨⟨ps, os, n, shape⟩, hands, others, health⟩ :=
    w.demote_endResign_spec cause .ok (pack [(e.rank, 0), (e.unit, 8)])
  have run : t.s.sc.goodRun = (w.demote cause).s.sc.goodRun := by
    show (if (w.demote cause).s.sc.hold then (w.demote cause).s.endResign .ok _ else (w.demote cause).s).sc.goodRun = _
    split
    · obtain ⟨⟨ps, os, ended⟩, -⟩ := (w.demote cause).s.endResign_spec .ok (pack [(e.rank, 0), (e.unit, 8)])
      rw [ended]
    · rfl
  have serves (p : PairId) : t.s.pairs[p].serves = w.s.pairs[p].serves := by
    obtain ⟨m, demoted⟩ := w.demote_spec cause
    show (if (w.demote cause).s.sc.hold then (w.demote cause).s.endResign .ok _ else
      (w.demote cause).s).pairs[p].serves = _
    rw [show w.s.pairs = (w.demote cause).s.pairs from (congrArg State.pairs demoted.symm :)]
    split
    · exact State.endResign_serves ..
    · rfl
  have count : n = _ := (congrArg (fun u : State => u.sc.goodRun) shape.symm).trans (run.trans (w.demote_goodRun cause))
  subst count
  refine ⟨⟨ps, os, shape⟩, hands, serves, others.trans ?_, health⟩
  show _ ++ stepDown w.s _ cause.code = _
  congr 2
  simp only [cause]
  split <;> rfl

/-- A unit that its own RESTART beacon elects (R106, R107, R121). -/
theorem Work.elect_eq (w : Work) : w.elect =
    ⟨{ w.s with sc := { w.s.sc with role := .leader, trimState := .frozen, keptTrim := w.s.sc.trimState } },
      w.others ++ [roleEvent w.s w.s.sc.cycleCount .leader 1, trimEvent w.s w.s.sc.cycleCount .frozen w.s.sc.trim],
      w.health⟩ := by
  rw [List.append_cons]
  rfl

theorem Work.edgeRole_elects (w : Work) {e : Edge} (h : e.restart = true ∧ w.s.sc.role ≠ .leader) :
    w.edgeRole true e = w.elect := if_pos h

theorem Work.edgeRole_stays (w : Work) {e : Edge} (h : ¬ (e.restart = true ∧ w.s.sc.role ≠ .leader)) :
    w.edgeRole true e = w := if_neg h

theorem syncEvents_congr {s t : State} (h : t.sc.sync = s.sc.sync) (ht : t.sc.localTime = s.sc.localTime) (count : Nat)
    (new : SyncState) (cause : Nat) : syncEvents t count new cause = syncEvents s count new cause := by
  unfold syncEvents
  rw [h, ht]

/-- The controller's own part of a taken edge. -/
theorem State.edgeControl_spec (s : State) (own : Bool) (e : Edge) (after : SyncState) (cause : SyncCause) {w : Work}
    (hw : w = ((s.work.on fun s => s.edgeTime e (decide (after = .locked))).edgeRole own e).setSync after cause) :
    (∃ ps os, w = ⟨{ s with sc := s.edgeSync own e after, pairs := ps, outputs := os },
      s.edgeRoleEvents own e ++ syncEvents s e.count after cause.code, []⟩) ∧
    Hands s w.s (s.edgeResigned own e) ∧ ∀ p : PairId, w.s.pairs[p].serves = s.pairs[p].serves := by
  obtain ⟨w0, hw0⟩ : ∃ w0, w0 = s.work.on fun s => s.edgeTime e (decide (after = .locked)) := ⟨_, rfl⟩
  rw [← hw0, Work.setSync_spec] at hw
  have state : w0.s = s.edgeTime e (decide (after = .locked)) := by rw [hw0]; rfl
  cases own with
  | true =>
    by_cases h : e.restart = true ∧ s.sc.role ≠ .leader
    · rw [Work.edgeRole_elects w0 (by rw [state]; exact h), Work.elect_eq, hw0] at hw
      rw [State.edgeSync_elected h, State.edgeRoleEvents_elected h, hw]
      exact ⟨⟨s.pairs, s.outputs, rfl⟩, .refl rfl, fun _ => rfl⟩
    · rw [Work.edgeRole_stays w0 (by rw [state]; exact h), hw0] at hw
      rw [State.edgeSync_own h, State.edgeRoleEvents_own h, hw]
      exact ⟨⟨s.pairs, s.outputs, rfl⟩, .refl rfl, fun _ => rfl⟩
  | false =>
    obtain ⟨⟨ps, os, shape⟩, hands, serves, others, health⟩ := w0.edgeRole_other e
    rw [others, health, shape] at hw
    rw [hw0] at hw shape hands serves
    rw [State.edgeSync_other, State.edgeRoleEvents_other, State.edgeResigned_other, hw]
    rw [shape] at hands serves
    exact ⟨⟨ps, os, rfl⟩, hands, serves⟩

end Sys2Proof.Machine

namespace Sys2Proof.Machine

set_option Elab.async false

/-! ### The measurement of an edge (R118 to R120) -/

/-- A deviation `d` is folded into the trim of `y`, which becomes `z` (R119), or counts toward the end of a suspension
(R120). -/
def TimeSync.Folded (y z : TimeSync) (p : Plan) (d : Int) : Prop :=
  (y.trimState = .tracking →
    (((y.trim + d.tdiv 4).natAbs : Int) ≤ (p.trimLimit : Int) →
      z.trim = y.trim + d.tdiv 4 ∧ z.trimState = .tracking ∧ z.goodRun = y.goodRun) ∧
    ((p.trimLimit : Int) < ((y.trim + d.tdiv 4).natAbs : Int) →
      z.trim = 0 ∧ z.trimState = .suspended ∧ z.goodRun = 0)) ∧
  (y.trimState = .suspended →
    ((p.trimLimit : Int) < (d.natAbs : Int) → z.trim = y.trim ∧ z.trimState = .suspended ∧ z.goodRun = 0) ∧
    ((d.natAbs : Int) ≤ (p.trimLimit : Int) → y.goodRun + 1 < 3 →
      z.trim = y.trim ∧ z.trimState = .suspended ∧ z.goodRun = y.goodRun + 1) ∧
    ((d.natAbs : Int) ≤ (p.trimLimit : Int) → 3 ≤ y.goodRun + 1 →
      z.trim = d ∧ z.trimState = .tracking ∧ z.goodRun = 0))

/-- The two controllers differ by the trim, its state, its good-run count and its carry alone. -/
def TimeSync.TrimmedFrom (z y : TimeSync) : Prop :=
  z = { y with trim := z.trim, stuCarry := z.stuCarry, trimState := z.trimState, goodRun := z.goodRun }

/-- The step in hand once the trim has become that of `z`: TRIM_STATE is posted where the trim state changes. -/
def Work.trimmed (w : Work) (z : TimeSync) (n : Nat) : Work :=
  ⟨{ w.s with sc := z, free := n },
    w.others ++ if z.trimState = w.s.sc.trimState then [] else [trimEvent w.s w.s.sc.cycleCount z.trimState z.trim],
    w.health⟩

theorem Work.trimmed_same {w : Work} {z : TimeSync} {n : Nat} (h : z.trimState = w.s.sc.trimState) :
    ⟨{ w.s with sc := z, free := n }, w.others, w.health⟩ = w.trimmed z n := by
  unfold Work.trimmed
  rw [if_pos h, List.append_nil]

theorem Work.trimmed_moved {w : Work} {z : TimeSync} {n : Nat} (h : z.trimState ≠ w.s.sc.trimState) :
    w.trimmed z n = ⟨{ w.s with sc := z, free := n },
      w.others ++ [trimEvent w.s w.s.sc.cycleCount z.trimState z.trim], w.health⟩ := by
  unfold Work.trimmed
  rw [if_neg h]

theorem Work.foldTrim_spec (w : Work) (p : Plan) (d : Int) (hf : w.s.sc.trimState ≠ .frozen) :
    ∃ z n, w.foldTrim p d = w.trimmed z n ∧ z.TrimmedFrom w.s.sc ∧ w.s.sc.Folded z p d := by
  unfold Work.foldTrim TimeSync.Folded
  cases ht : w.s.sc.trimState with
  | frozen => exact absurd ht hf
  | tracking =>
    dsimp only
    split
    · rename_i h
      obtain ⟨carry, n, shape, -⟩ := w.s.setTrim_shape 0
      refine ⟨{ w.s.sc with trim := 0, stuCarry := carry, trimState := .suspended, goodRun := 0 }, n, ?_, rfl,
        fun _ => ⟨fun hle => absurd h (Int.not_lt.2 hle), fun _ => ⟨rfl, rfl, rfl⟩⟩, nofun⟩
      refine Eq.trans (congrArg (fun u : State =>
        Work.setTrimState (w.on fun _ => { u with sc := { u.sc with goodRun := 0 } }) .suspended) shape) ?_
      rw [Work.trimmed_moved (by rw [ht]; exact nofun)]
      rfl
    · rename_i h
      obtain ⟨carry, n, shape, -⟩ := w.s.setTrim_shape (w.s.sc.trim + d.tdiv 4)
      refine ⟨{ w.s.sc with trim := w.s.sc.trim + d.tdiv 4, stuCarry := carry }, n, ?_, rfl,
        fun _ => ⟨fun _ => ⟨rfl, ht, rfl⟩, fun hlt => absurd hlt h⟩, nofun⟩
      exact (congrArg (fun u : State => w.on fun _ => u) shape).trans (Work.trimmed_same rfl)
  | suspended =>
    dsimp only
    split
    · rename_i h
      exact ⟨{ w.s.sc with goodRun := 0 }, w.s.free, Work.trimmed_same rfl, rfl, nofun,
        fun _ => ⟨fun _ => ⟨rfl, ht, rfl⟩, fun hle => absurd h (Int.not_lt.2 hle), fun hle => absurd h (Int.not_lt.2 hle)⟩⟩
    · rename_i h
      split
      · rename_i hr
        exact ⟨{ w.s.sc with goodRun := w.s.sc.goodRun + 1 }, w.s.free, Work.trimmed_same rfl, rfl, nofun,
          fun _ => ⟨fun hlt => absurd hlt h, fun _ _ => ⟨rfl, ht, rfl⟩, fun _ hle => absurd hr (Nat.not_lt.2 hle)⟩⟩
      · rename_i hr
        obtain ⟨carry, n, shape, -⟩ := w.s.setTrim_shape d
        refine ⟨{ w.s.sc with trim := d, stuCarry := carry, trimState := .tracking, goodRun := 0 }, n, ?_, rfl, nofun,
          fun _ => ⟨fun hlt => absurd hlt h, fun _ hlt => absurd hlt hr, fun _ _ => ⟨rfl, rfl, rfl⟩⟩⟩
        refine Eq.trans (congrArg (fun u : State =>
          Work.setTrimState (w.on fun _ => { u with sc := { u.sc with goodRun := 0 } }) .tracking) shape) ?_
        rw [Work.trimmed_moved (by rw [ht]; exact nofun)]
        rfl

end Sys2Proof.Machine

namespace Sys2Proof.Machine

set_option Elab.async false

/-! ### The matrix records at an edge (R131, R133, R134) -/

/-- The Health Monitor once the records have followed a taken edge, before its level (R131, R133, R134). -/
def State.edgeMonitor (s : State) (e : Edge) (follows : Bool) : HealthMonitor :=
  if e.count ≠ 0 then
    { s.hm with openRecord := s.hm.openRecord.map fun m => { m with isPartial := m.isPartial || !follows } }
  else
    { s.hm with
      closed := (s.hm.closing (!follows)).filter fun m => decide (m.inFlight ≠ 0),
      openRecord := if s.reportsOn then
          some { id := s.hm.nextId, number := s.hm.matrixNumber, expected := s.hm.expected, done := 0, failed := 0,
                 skipped := 0, isPartial := decide (s.sc.sync ≠ .locked), lastCycle := 0, inFlight := 0 }
        else none,
      matrixNumber := if s.reportsOn then (s.hm.matrixNumber + 1) % 256 else s.hm.matrixNumber,
      nextId := if s.reportsOn then s.hm.nextId + 1 else s.hm.nextId }

/-- The MATRIX_REPORTs of a taken edge (R134). -/
def State.edgeReports (s : State) (e : Edge) (follows : Bool) : List Event :=
  if e.count = 0 then readyRecords (s.hm.closing (!follows)) else []

theorem HealthMonitor.flagged_eq (h : HealthMonitor) (follows : Bool) : (if follows then h else h.flagPartial) =
    { h with openRecord := h.openRecord.map fun m => { m with isPartial := m.isPartial || !follows } } := by
  cases follows with
  | true => cases h with | mk => simp
  | false => simp [HealthMonitor.flagPartial]

/-- The matrix records as a count-0 edge closes the open one and begins the next, if `reports` are on (R131). -/
def HealthMonitor.renewed (h : HealthMonitor) (reports isPartial : Bool) : HealthMonitor :=
  if reports then h.closeRecord.beginRecord isPartial else h.closeRecord

theorem HealthMonitor.renewed_flagged (h : HealthMonitor) (follows reports isPartial : Bool) :
    (if follows then h else h.flagPartial).renewed reports isPartial =
      { h with
        closed := h.closing (!follows),
        openRecord := if reports then
            some { id := h.nextId, number := h.matrixNumber, expected := h.expected, done := 0, failed := 0,
                   skipped := 0, isPartial := isPartial, lastCycle := 0, inFlight := 0 }
          else none,
        matrixNumber := if reports then (h.matrixNumber + 1) % 256 else h.matrixNumber,
        nextId := if reports then h.nextId + 1 else h.nextId } := by
  have closes := h.closeRecord_flagged (!follows)
  rw [show (if !follows then h.flagPartial else h) = if follows then h else h.flagPartial by cases follows <;> rfl]
    at closes
  unfold HealthMonitor.renewed
  rw [closes]
  cases reports <;> rfl

theorem Work.edgeRecords_renews (w : Work) {e : Edge} (h : e.count = 0) (follows : Bool) {m : HealthMonitor}
    (hm : m = (if follows then w.s.hm else w.s.hm.flagPartial).renewed w.s.reportsOn (decide (w.s.sc.sync ≠ .locked))) :
    w.edgeRecords e follows = ⟨{ w.s with hm := { m with closed := m.closed.filter fun m => decide (m.inFlight ≠ 0) } },
      w.others, w.health ++ readyRecords m.closed⟩ := by
  unfold Work.edgeRecords
  rw [if_neg (not_not.2 h), hm]
  cases follows <;> rfl

theorem Work.edgeRecords_eq (w : Work) (e : Edge) (follows : Bool) : w.edgeRecords e follows =
    ⟨{ w.s with hm := w.s.edgeMonitor e follows }, w.others, w.health ++ w.s.edgeReports e follows⟩ := by
  unfold State.edgeMonitor State.edgeReports
  by_cases h : e.count = 0
  · rw [w.edgeRecords_renews h follows rfl, HealthMonitor.renewed_flagged, if_pos h, if_neg (not_not.2 h)]
  · rw [if_pos h, if_neg h, List.append_nil]
    have flags : w.edgeRecords e follows =
        (⟨{ w.s with hm := if follows then w.s.hm else w.s.hm.flagPartial }, w.others, w.health⟩ : Work) := by
      unfold Work.edgeRecords
      rw [if_pos h]
      cases follows <;> rfl
    rw [flags, HealthMonitor.flagged_eq]

/-! ### The take-up of a cycle (R25, R77) -/

theorem Lane.givingUp_eq (x : Lane) :
    x.givingUp = (x.queue.filter fun q => decide (3 ≤ q.giveUps)).map fun q => q.exchange.ref := by
  unfold Lane.givingUp
  congr 2
  funext q
  exact decide_eq_decide.2 (by omega)

theorem State.givingUp_eq (s : State) : s.lanes.toList.flatMap Lane.givingUp = s.fourthGiveUps := by
  have lanes : s.lanes.toList = (List.finRange 8).map fun l : LaneId => s.lanes[l] := by
    refine List.ext_getElem (by simp) fun i h1 h2 => ?_
    simp
  unfold State.fourthGiveUps
  rw [lanes, List.flatMap_map]
  exact List.flatMap_congr fun l _ => s.lanes[l].givingUp_eq

/-- The machine with a cycle taken up, but for the completions (R25, R77, R131). -/
def State.takenUp (s : State) (count : Nat) : State :=
  { s with
    cycle := some { count := count, tag := s.hm.openRecord.map MatrixRecord.id,
                    position := nextFiring s.active count 0 },
    hm := { s.hm with openRecord := s.hm.openRecord.map fun (m : MatrixRecord) => { m with lastCycle := count } },
    lanes := s.lanes.map Lane.countGiveUps }

theorem State.takeUp_spec (s : State) (count : Nat) :
    (∃ ps os, s.takeUp count = { s.takenUp count with pairs := ps, outputs := os }) ∧
      Hands s (s.takeUp count) (s.fourthGiveUps.map fun ref => ⟨ref, .laneNoGap, 0⟩) ∧
      ∀ p : PairId, (s.takeUp count).pairs[p].serves = s.pairs[p].serves := by
  have taken : s.takeUp count = (s.takenUp count).completeAll s.fourthGiveUps .laneNoGap 0 := by
    unfold State.takeUp
    rw [State.givingUp_eq]
    rfl
  rw [taken]
  obtain ⟨hands, serves⟩ := State.completeAll_Hands s.fourthGiveUps .laneNoGap 0 (s.takenUp count)
  exact ⟨State.completeAll_shape .., hands, serves⟩

end Sys2Proof.Machine

namespace Sys2Proof.Machine

set_option Elab.async false

/-! ### The step after the swap: records, level and Dispatcher (R25, R129, R131) -/

theorem State.takenUp_healthNow {a : State} (h : a.healthNow = a.hm) (count : Nat) :
    (a.takenUp count).healthNow = (a.takenUp count).hm := by
  have down : (a.takenUp count).laneIsDown = a.laneIsDown := by
    have states (l : LaneId) : (a.takenUp count).lanes[l].state = a.lanes[l].state := by
      show (a.lanes.map Lane.countGiveUps)[l].state = _
      rw [Fin.getElem_fin, Vector.getElem_map]
      rfl
    unfold State.laneIsDown
    simp only [states]
    rfl
  have level : (a.takenUp count).healthNow =
      { a.healthNow with openRecord := a.hm.openRecord.map fun (m : MatrixRecord) => { m with lastCycle := count } } := by
    unfold State.healthNow
    rw [down]
    rfl
  rw [level, h]
  rfl

/-- The Health Monitor after a taken edge, with its level (R128, R129). -/
def State.edgeLevel (s : State) (e : Edge) (follows : Bool) : State :=
  { s with hm := State.healthNow { s with hm := s.edgeMonitor e follows } }

theorem State.edgeLevel_healthNow (s : State) (e : Edge) (follows : Bool) :
    (s.edgeLevel e follows).healthNow = (s.edgeLevel e follows).hm :=
  State.healthNow_again { s with hm := s.edgeMonitor e follows }

/-- The machine once the edge has been handed on, but for completions and events: the Dispatcher takes up the cycle while
LOCKED and has none otherwise (R25). -/
def State.handedOn (s : State) (e : Edge) (follows : Bool) : State :=
  if s.sc.sync = .locked then (s.edgeLevel e follows).takenUp e.count else { s.edgeLevel e follows with cycle := none }

/-- The completions of the take-up of a cycle (R77). -/
def State.gaveUp (s : State) : List Completion :=
  if s.sc.sync = .locked then s.fourthGiveUps.map fun ref => ⟨ref, .laneNoGap, 0⟩ else []

theorem State.edgeMonitor_degraded (s : State) (e : Edge) (follows : Bool) :
    (s.edgeMonitor e follows).degraded = s.hm.degraded := by
  unfold State.edgeMonitor
  split <;> rfl

theorem State.handedOn_healthNow (s : State) (e : Edge) (follows : Bool) :
    (s.handedOn e follows).healthNow = (s.handedOn e follows).hm := by
  unfold State.handedOn
  split
  · exact State.takenUp_healthNow (s.edgeLevel_healthNow e follows) e.count
  · exact s.edgeLevel_healthNow e follows

/-- The take-up of a cycle changes the Dispatcher, the lanes and what the open record notes. -/
theorem State.handedOn_shape (s : State) (e : Edge) (follows : Bool) :
    ∃ r c ls, s.handedOn e follows = { s.edgeLevel e follows with
      hm := { (s.edgeLevel e follows).hm with openRecord := r }, cycle := c, lanes := ls } := by
  unfold State.handedOn
  split
  · exact ⟨_, _, _, rfl⟩
  · exact ⟨_, _, _, rfl⟩

/-- The Dispatcher and the lanes of a taken edge (R25, R77). -/
def Work.handOn (w : Work) (e : Edge) (follows : Bool) (after : SyncState) : Work :=
  (w.edgeRecords e follows).evaluate.on fun s => if after = .locked then s.takeUp e.count else { s with cycle := none }

theorem State.handedOn_spec (s : State) (e : Edge) (follows : Bool) {u : State}
    (hu : u = if s.sc.sync = .locked then (s.edgeLevel e follows).takeUp e.count
      else { s.edgeLevel e follows with cycle := none }) :
    (∃ ps os, u = { s.handedOn e follows with pairs := ps, outputs := os }) ∧ Hands s u s.gaveUp ∧
      ∀ p : PairId, u.pairs[p].serves = s.pairs[p].serves := by
  unfold State.handedOn State.gaveUp
  by_cases h : s.sc.sync = .locked
  · rw [if_pos h] at hu
    rw [if_pos h, if_pos h, hu]
    exact (s.edgeLevel e follows).takeUp_spec e.count
  · rw [if_neg h] at hu
    rw [if_neg h, if_neg h, hu]
    exact ⟨⟨s.pairs, s.outputs, rfl⟩, .refl rfl, fun _ => rfl⟩

/-- HEALTH does not show what the open record holds. -/
theorem healthChange_record {s a t : State} {r : Option MatrixRecord} (h : t.hm = { a.hm with openRecord := r })
    (hsc : t.sc = a.sc) (ha : t.active = a.active) : healthChange s a = healthChange s t := by
  unfold healthChange State.healthEvent State.event State.weakCount State.disabledCount
  rw [h, hsc, ha]

/-- A step that ends as an edge is handed on. -/
theorem Work.handOn_finish {s : State} {w : Work} {e : Edge} {follows : Bool} {after : SyncState} {t : State}
    (ht : t = (w.handOn e follows after).finish) (ha : w.s.sc.sync = after) (hd : w.s.dev ≠ .fatal) (hh : w.health = [])
    (he : w.s.ew = s.ew) (hl : w.s.sc.localTime = s.sc.localTime) (hm : w.s.hm.degraded = s.hm.degraded) :
    (∃ ew os n ps, t = { w.s.handedOn e follows with pairs := ps, ew := ew, outputs := os, free := n }) ∧
      Hands w.s t w.s.gaveUp ∧ Posts s t w.others (w.s.edgeReports e follows ++ healthChange s t) ∧
      t.healthNow = t.hm := by
  obtain ⟨u, hu⟩ : ∃ u, u = if w.s.sc.sync = .locked then (w.s.edgeLevel e follows).takeUp e.count
    else { w.s.edgeLevel e follows with cycle := none } := ⟨_, rfl⟩
  obtain ⟨⟨ps, os, shape⟩, hands, -⟩ := w.s.handedOn_spec e follows hu
  have change := healthChange_before (s := s) (u := { w.s with hm := w.s.edgeMonitor e follows }) (w.s.edgeLevel e follows)
    ((w.s.edgeMonitor_degraded e follows).trans hm)
  have ends : w.handOn e follows after =
      ⟨u, w.others, w.s.edgeReports e follows ++ healthChange s (w.s.edgeLevel e follows)⟩ := by
    unfold Work.handOn
    rw [Work.edgeRecords_eq, Work.evaluate_spec, hh, List.nil_append, ← change, hu, ha]
    rfl
  rw [ends] at ht
  obtain ⟨ew, os', n, finished⟩ := Work.finish_shape
    ⟨u, w.others, w.s.edgeReports e follows ++ healthChange s (w.s.edgeLevel e follows)⟩
  rw [← ht] at finished
  obtain ⟨r, c, ls, keeps⟩ := w.s.handedOn_shape e follows
  have kept : u.dev = w.s.dev ∧ u.ew = w.s.ew ∧ u.sc = w.s.sc := by
    rw [shape, keeps]
    exact ⟨rfl, rfl, rfl⟩
  obtain ⟨dev, writer, sc⟩ := kept
  have posts := Work.finish_Posts s
    ⟨u, w.others, w.s.edgeReports e follows ++ healthChange s (w.s.edgeLevel e follows)⟩
    (show u.dev ≠ .fatal by rw [dev]; exact hd) (writer.trans he) (show u.sc.localTime = _ by rw [sc]; exact hl)
  rw [← ht] at posts
  have final : t = { w.s.handedOn e follows with pairs := ps, ew := ew, outputs := os', free := n } := by
    rw [finished, shape]
  have level : healthChange s (w.s.edgeLevel e follows) = healthChange s t := by
    refine healthChange_record (r := r) ?_ ?_ ?_
    all_goals
      rw [final, keeps]
  rw [level] at posts
  refine ⟨⟨ew, os', n, ps, final⟩, ?_, posts, ?_⟩
  · rw [finished]
    exact hands
  · have again := w.s.handedOn_healthNow e follows
    rw [final]
    exact again

end Sys2Proof.Machine

namespace Sys2Proof.Machine

set_option Elab.async false

/-! ### A taken edge, whole -/

/-- A measurement, where R118 admits one, is folded into the trim. -/
def Work.measuredBy (w : Work) (p : Plan) (m : Option Int) : Work :=
  m.elim w fun d => (w.on fun s => { s with free := s.free + 1 }).foldTrim p d

theorem Work.measuredBy_spec (w : Work) (p : Plan) (m : Option Int) (hf : m ≠ none → w.s.sc.trimState ≠ .frozen) :
    ∃ z n, w.measuredBy p m = w.trimmed z n ∧ z.TrimmedFrom w.s.sc ∧ (m = none → z = w.s.sc) ∧
      ∀ d, m = some d → w.s.sc.Folded z p d := by
  cases m with
  | none => exact ⟨w.s.sc, w.s.free, Work.trimmed_same rfl, rfl, fun _ => rfl, nofun⟩
  | some d =>
    obtain ⟨z, n, folds, trimmed, folded⟩ :=
      (w.on fun s => { s with free := s.free + 1 }).foldTrim_spec p d (hf nofun)
    refine ⟨z, n, folds, trimmed, nofun, fun d' hd => ?_⟩
    obtain rfl := Option.some.inj hd
    exact folded

/-- The sync state after an edge (R112). -/
def State.edgeState (s : State) (p : Plan) (e : Edge) : SyncState :=
  s.sc.sync.afterEdge (decide (e.count = (s.sc.cycleCount + 1) % p.matrix))

/-- The controller's own part of a taken edge, with its measurement. -/
def State.edgeControl (s : State) (p : Plan) (own : Bool) (e : Edge) : Work :=
  (((s.work.on fun u => u.edgeTime e (decide (s.edgeState p e = .locked))).edgeRole own e).setSync (s.edgeState p e)
    s.sc.sync.edgeCause).measuredBy p (s.measure p e (decide (s.edgeState p e = .locked)))

theorem State.takeEdge_eq (s : State) (p : Plan) (own : Bool) (e : Edge) : s.work.takeEdge p own e =
    Work.handOn (if s.edgeState p e = .locked ∧ e.count = 0 then (s.edgeControl p own e).on fun u => u.swapPending false
      else s.edgeControl p own e) e (decide (e.count = (s.sc.cycleCount + 1) % p.matrix)) (s.edgeState p e) := by
  unfold State.edgeControl Work.measuredBy Work.takeEdge
  dsimp only
  rw [show s.work.s.sc.sync.afterEdge (decide (e.count = (s.work.s.sc.cycleCount + 1) % p.matrix)) = s.edgeState p e
    from rfl, show s.work.s.measure = s.measure from rfl]
  cases s.measure p e (decide (s.edgeState p e = .locked)) with
  | none => rfl
  | some d => rfl

/-- What the measurement of an edge posts: TRIM_STATE where the trim state changes (R119, R120). -/
def State.measureEvents (s : State) (e : Edge) (z : TimeSync) (y : TimeSync) : List Event :=
  if z.trimState = y.trimState then [] else [trimEvent s e.count z.trimState z.trim]

theorem State.measure_some {s : State} {p : Plan} {e : Edge} {b : Bool} (h : s.measure p e b ≠ none) :
    s.sc.role ≠ .leader ∧ s.sc.trimState ≠ .frozen ∧ e.restart = false := by
  unfold State.measure at h
  split at h
  · split at h
    · rename_i hc
      exact ⟨hc.1, hc.2.1, hc.2.2.2.2.2⟩
    · exact absurd rfl h
  · exact absurd rfl h

/-- An edge that is measured leaves the role and the trim state to the measurement (R118, log entry 18). -/
theorem State.edgeSync_measured {s : State} {own : Bool} {e : Edge} {after : SyncState} (hr : s.sc.role ≠ .leader)
    (he : e.restart = false) : (s.edgeSync own e after).trimState = s.sc.trimState ∧
      (s.edgeSync own e after).trim = s.sc.trim ∧ (s.edgeSync own e after).goodRun = s.sc.goodRun := by
  unfold State.edgeSync
  simp [hr, he]
  rfl

/-- The controller's own part of a taken edge and its measurement. -/
theorem State.edgeControl_measured (s : State) (p : Plan) (own : Bool) (e : Edge) :
    ∃ z n ps os, s.edgeControl p own e = ⟨{ s with sc := z, pairs := ps, outputs := os, free := n },
        s.edgeRoleEvents own e ++ syncEvents s e.count (s.edgeState p e) s.sc.sync.edgeCause.code ++
          s.measureEvents e z (s.edgeSync own e (s.edgeState p e)), []⟩ ∧
      z.TrimmedFrom (s.edgeSync own e (s.edgeState p e)) ∧
      (s.measure p e (decide (s.edgeState p e = .locked)) = none → z = s.edgeSync own e (s.edgeState p e)) ∧
      (∀ d, s.measure p e (decide (s.edgeState p e = .locked)) = some d →
        (s.edgeSync own e (s.edgeState p e)).Folded z p d) ∧
      Hands s (s.edgeControl p own e).s (s.edgeResigned own e) ∧
      ∀ p' : PairId, (s.edgeControl p own e).s.pairs[p'].serves = s.pairs[p'].serves := by
  obtain ⟨w, hw⟩ : ∃ w, w = ((s.work.on fun u => u.edgeTime e (decide (s.edgeState p e = .locked))).edgeRole own e).setSync
    (s.edgeState p e) s.sc.sync.edgeCause := ⟨_, rfl⟩
  obtain ⟨⟨ps, os, shape⟩, hands, serves⟩ := s.edgeControl_spec own e _ _ hw
  have starts : s.edgeControl p own e = w.measuredBy p (s.measure p e (decide (s.edgeState p e = .locked))) := by
    rw [hw]
    rfl
  have sync : w.s.sc = s.edgeSync own e (s.edgeState p e) := by rw [shape]
  obtain ⟨z, n, measured, trimmed, none, folded⟩ :=
    w.measuredBy_spec p (s.measure p e (decide (s.edgeState p e = .locked))) fun h => by
      obtain ⟨hr, ht, he⟩ := State.measure_some h
      rw [sync, (State.edgeSync_measured hr he).1]
      exact ht
  rw [sync] at trimmed none folded
  rw [starts, measured]
  refine ⟨z, n, ps, os, ?_, trimmed, none, folded, hands, serves⟩
  unfold Work.trimmed State.measureEvents
  rw [shape]
  by_cases same : z.trimState = (s.edgeSync own e (s.edgeState p e)).trimState
  · rw [if_pos same]
    exact congrArg (fun es => Work.mk _ (_ ++ es) _) (if_pos same).symm
  · have some : s.measure p e (decide (s.edgeState p e = .locked)) ≠ .none := fun h => same (by rw [none h])
    obtain ⟨hr, -, he⟩ := State.measure_some some
    rw [if_neg same]
    refine congrArg (fun es => Work.mk _ (_ ++ es) _) (Eq.trans ?_ (if_neg same).symm)
    have code : (s.edgeSync own e (s.edgeState p e)).trimState = s.sc.trimState := (State.edgeSync_measured hr he).1
    unfold trimEvent
    dsimp only
    rw [code]
    rfl

end Sys2Proof.Machine

namespace Sys2Proof.Machine

set_option Elab.async false

/-! ### The tables at an edge (R18 to R22) -/

/-- `v` holds the tables of `s` as an edge leaves them under the plan `p`, with the controller `z`: swapped if the edge
swaps and a commit is pending, and as they were if not. -/
structure TablesAtEdge (s v : State) (z : TimeSync) (p : Plan) (swaps : Prop) : Prop where
  sc        : v.sc = z
  dev       : v.dev = s.dev
  ew        : v.ew = s.ew
  rings     : v.rings = s.rings
  slotQueue : v.slotQueue = s.slotQueue
  hm        : v.hm = { s.hm with expected := v.hm.expected }
  queue     : ∀ l : LaneId, v.lanes[l] = { s.lanes[l] with inFlight := v.lanes[l].inFlight }
  swapped   : swaps → s.pendingCommit ≠ none → (∀ l : LaneId, v.lanes[l].inFlight = s.lanes[l].inFlight.map (afterSwap s)) ∧
    ∀ t : State, t.active = v.active → t.edit = v.edit → t.session = v.session → t.hm.expected = v.hm.expected → Swapped s t p
  kept      : s.pendingCommit = none ∨ ¬ swaps → v.lanes = s.lanes ∧
    ∀ t : State, t.active = v.active → t.edit = v.edit → t.session = v.session → t.hm.expected = v.hm.expected →
      NotSwapped s t

theorem TablesAtEdge.of_performed {s u v : State} {z : TimeSync} {p : Plan} {swaps : Prop} (hs : swaps)
    {n : Nat} {ps ps' : Vector Pair 4} {os os' : List Output}
    (hu : u = { s with sc := z, pairs := ps, outputs := os, free := n })
    (hv : v = { u.performed false with pairs := ps', outputs := os' }) (hp : z.plan = some p) :
    TablesAtEdge s v z p swaps := by
  obtain ⟨keeps, monitor⟩ := u.performed_keeps false
  have lanes (l : LaneId) : v.lanes[l] = { s.lanes[l] with
      inFlight := if s.pendingCommit = none then s.lanes[l].inFlight else s.lanes[l].inFlight.map (afterSwap s) } := by
    rw [show v.lanes = (u.performed false).lanes from (congrArg State.lanes hv :)]
    refine (u.performed_lane false l).trans ?_
    rw [hu]
    rfl
  have vhm : v.hm = (u.performed false).hm := (congrArg State.hm hv :)
  have record : (u.performed false).hm.openRecord = u.hm.openRecord := by
    unfold State.performed
    split <;> rfl
  refine ⟨?_, ?_, ?_, ?_, ?_, ?_, fun l => ?_, fun _ hc => ⟨fun l => ?_, fun t ha he hn hm => ?_⟩, fun hk => ⟨?_, fun t ha he hn hm => ?_⟩⟩
  · rw [hv, keeps, hu]
  · rw [hv, keeps, hu]
  · rw [hv, keeps, hu]
  · rw [hv, keeps, hu]
  · rw [hv, keeps, hu]
  · rw [vhm, monitor, record, hu]
  · rw [lanes l]
  · rw [lanes l]
    exact if_neg hc
  · subst hu hv
    exact State.performed_Swapped (s := { s with sc := z, pairs := ps, outputs := os, free := n }) hp hc ha he hn hm
  · obtain hk | hk := hk
    · rw [hv, State.performed_none (s := u) (by rw [hu]; exact hk), hu]
    · exact absurd hs hk
  · obtain hk | hk := hk
    · subst hu hv
      exact State.performed_NotSwapped (s := { s with sc := z, pairs := ps, outputs := os, free := n }) hk ha he hn hm
    · exact absurd hs hk

theorem TablesAtEdge.of_kept {s v : State} {z : TimeSync} {p : Plan} {swaps : Prop} (hs : ¬ swaps) {n : Nat}
    {ps : Vector Pair 4} {os : List Output} (hv : v = { s with sc := z, pairs := ps, outputs := os, free := n }) :
    TablesAtEdge s v z p swaps := by
  subst hv
  exact ⟨rfl, rfl, rfl, rfl, rfl, rfl, fun _ => rfl, fun h => absurd h hs, fun _ => ⟨rfl, fun _ ha he hn hm => ⟨ha, he, hn, hm⟩⟩⟩

/-! ### A taken edge, whole -/

theorem TimeSync.TrimmedFrom.keeps {y z : TimeSync} (h : z.TrimmedFrom y) :
    z.plan = y.plan ∧ z.sync = y.sync ∧ z.localTime = y.localTime := by
  unfold TimeSync.TrimmedFrom at h
  rw [h]
  exact ⟨rfl, rfl, rfl⟩

/-- What a swap at an edge hands (R19, R54). -/
def State.edgeSwaps (s : State) (swaps : Prop) [Decidable swaps] : List Completion :=
  if swaps then s.pendingCommit.toList.flatMap fun ref => swapCompletions s ref else []

/-- A step that takes an edge: `z` is the controller after it, `v` stands where the tables are those of the next cycle. -/
theorem State.edge_finish {s t : State} {p : Plan} {own : Bool} {e : Edge} (ht : t = (s.work.takeEdge p own e).finish)
    (hd : s.dev ≠ .fatal) (hp : s.sc.plan = some p) :
    ∃ z v, z.TrimmedFrom (s.edgeSync own e (s.edgeState p e)) ∧
      (s.measure p e (decide (s.edgeState p e = .locked)) = none → z = s.edgeSync own e (s.edgeState p e)) ∧
      (∀ d, s.measure p e (decide (s.edgeState p e = .locked)) = some d →
        (s.edgeSync own e (s.edgeState p e)).Folded z p d) ∧
      TablesAtEdge s v z p (s.edgeState p e = .locked ∧ e.count = 0) ∧
      (∃ ew os n ps, t = { v.handedOn e (decide (e.count = (s.sc.cycleCount + 1) % p.matrix)) with
        pairs := ps, ew := ew, outputs := os, free := n }) ∧
      Hands s t (s.edgeResigned own e ++ s.edgeSwaps (s.edgeState p e = .locked ∧ e.count = 0) ++ v.gaveUp) ∧
      Posts s t (s.edgeRoleEvents own e ++ syncEvents s e.count (s.edgeState p e) s.sc.sync.edgeCause.code ++
          s.measureEvents e z (s.edgeSync own e (s.edgeState p e)))
        (v.edgeReports e (decide (e.count = (s.sc.cycleCount + 1) % p.matrix)) ++ healthChange s t) ∧
      t.healthNow = t.hm := by
  obtain ⟨z, n, ps, os, control, trimmed, none, folded, resigns, serves⟩ := s.edgeControl_measured p own e
  rw [s.takeEdge_eq] at ht
  obtain ⟨zplan, zsync, ztime⟩ := trimmed.keeps
  have plan : z.plan = some p := zplan.trans hp
  obtain ⟨w, hw⟩ : ∃ w, w = if s.edgeState p e = .locked ∧ e.count = 0 then
      (s.edgeControl p own e).on fun u => u.swapPending false else s.edgeControl p own e := ⟨_, rfl⟩
  rw [← hw] at ht
  have stage : TablesAtEdge s w.s z p (s.edgeState p e = .locked ∧ e.count = 0) ∧
      Hands s w.s (s.edgeResigned own e ++ s.edgeSwaps (s.edgeState p e = .locked ∧ e.count = 0)) ∧
      (∀ p' : PairId, w.s.pairs[p'].serves = s.pairs[p'].serves) ∧
      w.others = (s.edgeControl p own e).others ∧ w.health = (s.edgeControl p own e).health := by
    unfold State.edgeSwaps
    by_cases h : s.edgeState p e = .locked ∧ e.count = 0
    · rw [if_pos h] at hw
      rw [if_pos h, hw]
      obtain ⟨⟨ps', os', swapped⟩, swaps, swapServes⟩ := (s.edgeControl p own e).s.swapPending_spec false
      refine ⟨.of_performed h (congrArg Work.s control) swapped plan, ?_, fun p' => (swapServes p').trans (serves p'), rfl, rfl⟩
      refine resigns.trans ?_ serves
      rw [control] at swaps ⊢
      exact swaps
    · rw [if_neg h] at hw
      rw [if_neg h, hw, List.append_nil]
      exact ⟨.of_kept h (congrArg Work.s control), resigns, serves, rfl, rfl⟩
  obtain ⟨tables, hands, serves', others, health⟩ := stage
  rw [control] at others health
  obtain ⟨final, gives, posts, level⟩ := Work.handOn_finish (s := s) ht (by rw [tables.sc, zsync]; rfl)
    (by rw [tables.dev]; exact hd) health tables.ew (by rw [tables.sc, ztime]; rfl)
    (by rw [tables.hm])
  rw [others] at posts
  exact ⟨z, w.s, trimmed, none, folded, tables, final, hands.trans gives serves', posts, level⟩

end Sys2Proof.Machine

namespace Sys2Proof.Machine

set_option Elab.async false

/-! ### What a taken edge leaves, field by field -/

/-- The sync state after an edge, by the table of R112. -/
theorem State.edgeState_eq {s : State} {p : Plan} {e : Edge} (h : s.sc.sync ≠ .off) : s.edgeState p e =
    if s.sc.sync = .unsynced ∨ ¬ (e.count = (s.sc.cycleCount + 1) % p.matrix) then .acquiring else .locked := by
  unfold State.edgeState SyncState.afterEdge
  by_cases hc : e.count = (s.sc.cycleCount + 1) % p.matrix <;> cases hy : s.sc.sync <;> simp_all

theorem State.measure_eq (s : State) (p : Plan) (e : Edge) (after : SyncState) :
    s.measure p e (decide (after = .locked)) = s.sc.opening.bind fun o =>
      if s.sc.role ≠ .leader ∧ s.sc.trimState ≠ .frozen ∧ after = .locked ∧ o.locked = true ∧ o.restart = false ∧
          e.restart = false then
        some (deviation (cycleSixteenths o.instant e.instant s.free) p.bm)
      else none := by
  unfold State.measure
  simp only [decide_eq_true_eq]
  cases s.sc.opening <;> rfl

section
variable {s : State} {z : TimeSync} {own : Bool} {e : Edge} {after : SyncState}
  (hz : z.TrimmedFrom (s.edgeSync own e after))
include hz

/-- The time base and the sync state after a taken edge (R99, R109, R112). -/
theorem TimeSync.TrimmedFrom.time : z.sync = after ∧ z.cycleCount = e.count ∧
    z.cycleTime = min 65535 (s.sc.localTime - e.instant.time).toNat ∧
    z.opening = some { instant := e.instant, locked := decide (after = .locked), restart := e.restart } ∧
    z.plan = s.sc.plan ∧ z.localTime = s.sc.localTime ∧ z.stuLength = s.sc.stuLength ∧ z.stuLeft = s.sc.stuLeft ∧
    z.lastLeader = some (e.rank, e.unit) ∧ z.receiving = none ∧ z.sending = s.sc.sending := by
  unfold TimeSync.TrimmedFrom at hz
  rw [hz]
  exact ⟨rfl, rfl, rfl, rfl, rfl, rfl, rfl, rfl, rfl, rfl, rfl⟩

/-- The role and the resign hold after a taken edge (R104, R106, R107, R111). -/
theorem TimeSync.TrimmedFrom.role : z.role =
      (if own = true ∧ e.restart = true ∧ s.sc.role ≠ .leader then .leader
        else if own = false ∧ s.sc.role = .leader then .backup else s.sc.role) ∧
    (own = true ∧ e.restart = true ∧ s.sc.role ≠ .leader → z.keptTrim = s.sc.trimState) ∧
    z.hold = (s.sc.hold && own) ∧ z.resign = if own = false ∧ s.sc.hold = true then none else s.sc.resign := by
  unfold TimeSync.TrimmedFrom at hz
  rw [hz]
  exact ⟨rfl, fun h => if_pos h, rfl, rfl⟩

end

/-- A measured edge folds its deviation into the trim that the unit had (R118 to R120). -/
theorem TimeSync.Folded.of_measured {s : State} {z : TimeSync} {p : Plan} {own : Bool} {e : Edge} {after : SyncState} {d : Int}
    (h : (s.edgeSync own e after).Folded z p d) (hr : s.sc.role ≠ .leader) (he : e.restart = false) : s.sc.Folded z p d := by
  obtain ⟨state, trim, run⟩ := State.edgeSync_measured (own := own) (after := after) hr he
  unfold TimeSync.Folded at h ⊢
  rwa [state, trim, run] at h

section
variable (v : State) (e : Edge) (follows : Bool)

/-- What a take-up of a cycle leaves alone. -/
theorem State.handedOn_keeps : (v.handedOn e follows).sc = v.sc ∧ (v.handedOn e follows).active = v.active ∧
    (v.handedOn e follows).edit = v.edit ∧ (v.handedOn e follows).session = v.session ∧
    (v.handedOn e follows).dev = v.dev ∧ (v.handedOn e follows).rings = v.rings ∧
    (v.handedOn e follows).slotQueue = v.slotQueue := by
  obtain ⟨r, c, ls, h⟩ := v.handedOn_shape e follows
  rw [h]
  exact ⟨rfl, rfl, rfl, rfl, rfl, rfl, rfl⟩

theorem State.handedOn_lane (l : LaneId) : (v.handedOn e follows).lanes[l] =
    { v.lanes[l] with queue :=
      if v.sc.sync = .locked then
        (v.lanes[l].queue.map fun q => { q with giveUps := q.giveUps + 1 }).filter fun q => decide (q.giveUps < 4)
      else v.lanes[l].queue } := by
  unfold State.handedOn
  by_cases h : v.sc.sync = .locked
  · rw [if_pos h, if_pos h]
    show (v.lanes.map Lane.countGiveUps)[l] = _
    rw [Fin.getElem_fin, Vector.getElem_map]
    rfl
  · rw [if_neg h, if_neg h]
    rfl

theorem nextFiring_zero (table : List ActiveEntry) (count : Nat) :
    nextFiring table count 0 = table.findIdx fun a => decide (count % a.entry.period = a.entry.phase) := by
  unfold nextFiring
  rw [List.drop_zero, Nat.zero_add]
  rfl

theorem State.handedOn_cycle : (v.handedOn e follows).cycle =
    if v.sc.sync = .locked then
      some { count := e.count, tag := (v.handedOn e follows).hm.openRecord.map MatrixRecord.id,
             position := v.active.findIdx fun a => decide (e.count % a.entry.period = a.entry.phase) }
    else none := by
  unfold State.handedOn
  by_cases h : v.sc.sync = .locked
  · rw [if_pos h, if_pos h, ← nextFiring_zero]
    show some _ = some _
    congr 2
    show Option.map _ _ = Option.map _ (Option.map _ _)
    rw [Option.map_map]
    rfl
  · rw [if_neg h, if_neg h]

theorem State.handedOn_expected : (v.handedOn e follows).hm.expected = v.hm.expected := by
  have same : (v.edgeMonitor e follows).expected = v.hm.expected := by
    unfold State.edgeMonitor
    split <;> rfl
  obtain ⟨r, c, ls, h⟩ := v.handedOn_shape e follows
  rw [h]
  exact same

/-- The matrix records after a taken edge (R131, R133, R134). -/
theorem State.handedOn_records :
    let present := v.hm.openRecord.map fun m =>
      { m with isPartial := m.isPartial || !follows,
               lastCycle := if v.sc.sync = .locked ∧ e.count ≠ 0 then e.count else m.lastCycle }
    (v.handedOn e follows).hm.closed =
      (if e.count = 0 then (v.hm.closing (!follows)).filter fun m => decide (m.inFlight ≠ 0) else v.hm.closed) ∧
    (v.handedOn e follows).hm.openRecord =
      (if e.count ≠ 0 then present
      else if v.reportsOn then
        some { id := v.hm.nextId, number := v.hm.matrixNumber, expected := v.hm.expected, done := 0, failed := 0,
               skipped := 0, isPartial := decide (v.sc.sync ≠ .locked), lastCycle := 0, inFlight := 0 }
      else none) ∧
    (v.handedOn e follows).hm.matrixNumber =
      (if e.count = 0 ∧ v.reportsOn = true then (v.hm.matrixNumber + 1) % 256 else v.hm.matrixNumber) := by
  intro present
  have monitor : (v.handedOn e follows).hm = { (v.edgeLevel e follows).hm with openRecord :=
      if v.sc.sync = .locked then
        ((v.edgeMonitor e follows).openRecord.map fun (m : MatrixRecord) => { m with lastCycle := e.count })
      else (v.edgeMonitor e follows).openRecord } := by
    unfold State.handedOn
    split <;> rfl
  have level : (v.edgeLevel e follows).hm.closed = (v.edgeMonitor e follows).closed ∧
      (v.edgeLevel e follows).hm.matrixNumber = (v.edgeMonitor e follows).matrixNumber := ⟨rfl, rfl⟩
  obtain ⟨closed, number⟩ := level
  rw [monitor]
  dsimp only
  rw [closed, number]
  unfold State.edgeMonitor
  by_cases h : e.count = 0
  · simp only [h, ne_eq, not_true_eq_false, if_false, if_true, true_and]
    refine ⟨?_, trivial⟩
    by_cases hl : v.sc.sync = .locked <;> cases v.reportsOn <;> simp [hl]
  · simp only [h, ne_eq, not_false_eq_true, if_true, if_false, false_and, and_true]
    refine ⟨trivial, ?_⟩
    by_cases hl : v.sc.sync = .locked
    · rw [if_pos hl, Option.map_map]
      simp only [present, hl, h, ne_eq, not_false_eq_true, and_self, if_true]
      rfl
    · rw [if_neg hl]
      simp only [present, hl, false_and, if_false]

end

end Sys2Proof.Machine

namespace Sys2Proof.Machine

set_option Elab.async false

/-! ### The arithmetic of a measurement (R118) -/

/-- The length of a cycle in sixteenths is exact to less than one (R118, log entry 6). -/
theorem cycleSixteenths_spec (a b : Instant) (n : Nat) (ha : 0 < a.length) (hb : 0 < b.length)
    (hw : (0 : Int) ≤ ((b.time - a.time).toNat * a.length * b.length + b.clocks * a.length : Int) - a.clocks * b.length) :
    let whole := ((b.time - a.time).toNat * a.length * b.length + b.clocks * a.length : Int) - a.clocks * b.length
    let unit := (a.length * b.length : Int)
    unit * cycleSixteenths a b n < 16 * whole + unit ∧ 16 * whole < unit * cycleSixteenths a b n + unit ∧
      (unit ∣ 16 * whole → unit * cycleSixteenths a b n = 16 * whole) := by
  intro whole unit
  obtain ⟨w, hwhole⟩ : ∃ w : Nat, (w : Int) = whole := ⟨whole.toNat, Int.toNat_of_nonneg hw⟩
  obtain ⟨x, hx⟩ : ∃ x, x = (b.time - a.time).toNat * a.length * b.length + b.clocks * a.length := ⟨_, rfl⟩
  have clocks : 16 * x - 16 * (a.clocks * b.length) = 16 * w := by
    have hsub : (w : Int) = (x : Int) - (a.clocks * b.length : Nat) := by
      rw [hwhole, hx]
      push_cast
      rfl
    omega
  have sixteenths : cycleSixteenths a b n = roundFree (16 * w) (a.length * b.length) n := by
    unfold cycleSixteenths
    rw [← hx, clocks]
  obtain ⟨above, below, exact_⟩ := roundFree_spec (16 * w) n (Nat.mul_pos ha hb)
  rw [sixteenths]
  have hunit : ((a.length * b.length : Nat) : Int) = unit := by
    push_cast
    rfl
  rw [← hwhole, ← hunit]
  generalize roundFree (16 * w) (a.length * b.length) n = r at above below exact_
  generalize a.length * b.length = u at above below exact_
  have turn : (u : Int) * r = ((r * u : Nat) : Int) := by
    push_cast
    ring
  rw [turn]
  rw [Nat.add_mul] at below
  refine ⟨by omega, by omega, fun hdvd => ?_⟩
  have whole_ : u ∣ 16 * w := by exact_mod_cast hdvd
  have := exact_ (Nat.mod_eq_zero_of_dvd whole_)
  omega

/-- A quotient is rounded to the nearest whole number, halves away from zero (R118). -/
theorem roundHalfAway_spec (a : Int) {b : Nat} (hb : 0 < b) :
    2 * (a - b * roundHalfAway a b).natAbs ≤ b ∧
      (2 * (a - b * roundHalfAway a b).natAbs = b → a.natAbs ≤ b * (roundHalfAway a b).natAbs) := by
  have half (n : Nat) : 2 * (b * ((2 * n + b) / (2 * b))) ≤ 2 * n + b ∧
      2 * n + b < 2 * (b * ((2 * n + b) / (2 * b))) + 2 * b := by
    have whole := Nat.div_add_mod (2 * n + b) (2 * b)
    have rest := Nat.mod_lt (2 * n + b) (show 0 < 2 * b by omega)
    rw [Nat.mul_assoc] at whole
    constructor <;> omega
  unfold roundHalfAway
  split
  · obtain ⟨n, rfl⟩ : ∃ n : Nat, a = -(n : Int) := ⟨(-a).toNat, by omega⟩
    obtain ⟨low, high⟩ := half n
    rw [neg_neg, Int.toNat_natCast, Int.natAbs_neg, Int.natAbs_neg, Int.natAbs_natCast, Int.natAbs_natCast, mul_neg,
      ← Int.natCast_mul]
    generalize b * ((2 * n + b) / (2 * b)) = k at low high
    constructor <;> omega
  · obtain ⟨n, rfl⟩ : ∃ n : Nat, a = (n : Int) := ⟨a.toNat, by omega⟩
    obtain ⟨low, high⟩ := half n
    rw [Int.toNat_natCast, Int.natAbs_natCast, Int.natAbs_natCast, ← Int.natCast_mul]
    generalize b * ((2 * n + b) / (2 * b)) = k at low high
    constructor <;> omega

end Sys2Proof.Machine

namespace Sys2Proof.Machine

set_option Elab.async false

/-! ### The events that take an edge (R101, R112) -/

/-- The machine with `x` as the beacon of the unit's own on the pair. -/
def State.withSending (s : State) (x : Option OwnBeacon) : State := { s with sc := { s.sc with sending := x } }

theorem State.beaconReceived_taken {s : State} {p : Plan} {instant : Instant} {bits : List Bool} (hs : s.serving = true)
    (hp : s.sc.plan = some p) (hy : s.sc.sync ≠ .off) (hr : s.sc.receiving = some instant)
    (hf : beaconFault p.matrix p.bm bits = none) : exec (.beaconReceived bits) s = .next (s.work.takeEdge p false
      { instant := instant, count := beaconCount bits, restart := beaconRestart bits, rank := beaconRank bits,
        unit := beaconUnit bits }).finish := by
  have received : s.beaconReceived bits = (s.work.takeEdge p false
      { instant := instant, count := beaconCount bits, restart := beaconRestart bits, rank := beaconRank bits,
        unit := beaconUnit bits }).finish := by
    unfold State.beaconReceived
    rw [hp, hr, hs, (SyncState.watches_iff _).2 hy]
    simp only [hf]
    rfl
  exact congrArg Host.Outcome.next received

section
variable {s : State} {p : Plan} {b : OwnBeacon} (hs : s.serving = true) (hp : s.sc.plan = some p)
  (hb : s.sc.sending = some b)
include hs hb

omit hp in
theorem State.ownBeaconDue_eq : s.ownBeaconDue = decide (610 ≤ b.clocks) := by
  unfold State.ownBeaconDue
  rw [hs, hb]
  rfl

omit hp in
theorem State.ownBeaconEnd_early (hc : b.clocks < 610) : s.ownBeaconEnd = s := by
  unfold State.ownBeaconEnd
  rw [State.ownBeaconDue_eq hs hb, decide_eq_false (Nat.not_le.2 hc)]

include hp

theorem State.ownBeaconEnd_eq (hc : 610 ≤ b.clocks) : s.ownBeaconEnd =
    if b.counts && s.sc.sync.watches then ((s.withSending none).work.takeEdge p true
      { instant := b.instant, count := b.count, restart := b.restart, rank := p.rank, unit := p.unit }).finish
    else s.withSending none := by
  unfold State.ownBeaconEnd
  rw [State.ownBeaconDue_eq hs hb, decide_eq_true hc, hb, hp]
  rfl

theorem State.ownBeaconEnd_left (hc : 610 ≤ b.clocks) (hn : b.counts = false ∨ s.sc.sync = .off) :
    s.ownBeaconEnd = s.withSending none := by
  rw [State.ownBeaconEnd_eq hs hp hb hc]
  refine if_neg fun h => ?_
  obtain ⟨counts, watches⟩ := Bool.and_eq_true_iff.1 h
  obtain hn | hn := hn
  · rw [hn] at counts
    nomatch counts
  · exact (SyncState.watches_iff _).1 watches hn

theorem State.ownBeaconEnd_taken (hc : 610 ≤ b.clocks) (hn : b.counts = true) (hy : s.sc.sync ≠ .off) :
    exec .ownBeaconEnd s = .next ((s.withSending none).work.takeEdge p true
      { instant := b.instant, count := b.count, restart := b.restart, rank := p.rank, unit := p.unit }).finish := by
  have ends := State.ownBeaconEnd_eq hs hp hb hc
  rw [hn, (SyncState.watches_iff _).2 hy] at ends
  exact congrArg Host.Outcome.next ends

end

/-- Each event that takes an edge takes it from the machine with the pair as it then stands. -/
theorem TakesEdge.exec {c : Instr} {s : State} {p : Plan} {own : Bool} {e : Edge} (h : TakesEdge c s p own e) :
    ∃ x, Machine.exec c s = .next ((s.withSending x).work.takeEdge p own e).finish := by
  obtain ⟨hs, hp, hy, h | h⟩ := h
  · obtain ⟨rfl, bits, rfl, hr, hf, hcount, hrestart, hrank, hunit⟩ := h
    obtain ⟨instant, count, restart, rank, unit⟩ := e
    obtain rfl : count = _ := hcount
    obtain rfl : restart = _ := hrestart
    obtain rfl : rank = _ := hrank
    obtain rfl : unit = _ := hunit
    exact ⟨s.sc.sending, State.beaconReceived_taken hs hp hy hr hf⟩
  · obtain ⟨rfl, b, rfl, hb, hc, hn, rfl⟩ := h
    exact ⟨none, State.ownBeaconEnd_taken hs hp hb hc hn hy⟩

end Sys2Proof.Machine

namespace Sys2Proof.Machine

set_option Elab.async false

/-- The matrix records that an edge closes (R131, R133). -/
theorem TablesAtEdge.closing {s v : State} {z : TimeSync} {p : Plan} {swaps : Prop} (h : TablesAtEdge s v z p swaps)
    (partly : Bool) : v.hm.closing partly = s.hm.closing partly := by
  rw [h.hm]
  rfl

theorem TablesAtEdge.fourthGiveUps {s v : State} {z : TimeSync} {p : Plan} {swaps : Prop}
    (h : TablesAtEdge s v z p swaps) : v.fourthGiveUps = s.fourthGiveUps := by
  have queue (l : LaneId) : v.lanes[l].queue = s.lanes[l].queue :=
    (congrArg Lane.queue (h.queue l) :)
  unfold State.fourthGiveUps
  simp only [queue]

/-- The records that an edge of count 0 closes, as it finds them (R131, R133). -/
theorem HealthMonitor.closing_eq (h : HealthMonitor) (follows : Bool) (lastCycle : Nat) (b : Prop) [Decidable b] (hb : ¬ b) :
    h.closing (!follows) = h.closed ++ (h.openRecord.map fun m =>
      { m with isPartial := m.isPartial || !follows, lastCycle := if b then lastCycle else m.lastCycle }).toList := by
  unfold HealthMonitor.closing
  simp only [if_neg hb]
  cases h.openRecord <;> rfl

/-- The matrix records after an edge, from those it found (R131, R133, R134). -/
theorem TablesAtEdge.records {s v : State} {z : TimeSync} {p : Plan} {swaps : Prop} (h : TablesAtEdge s v z p swaps)
    (hp : z.plan = some p) (e : Edge) (follows : Prop) [Decidable follows] :
    let present := s.hm.openRecord.map fun m =>
      { m with
        isPartial := m.isPartial || decide (¬ follows),
        lastCycle := if z.sync = .locked ∧ e.count ≠ 0 then e.count else m.lastCycle }
    let closing := s.hm.closed ++ if e.count = 0 then present.toList else []
    let t := v.handedOn e (decide follows)
    v.edgeReports e (decide follows) = (if e.count = 0 then readyRecords closing else []) ∧
    t.hm.closed = (if e.count = 0 then closing.filter fun m => decide (m.inFlight ≠ 0) else s.hm.closed) ∧
    t.hm.openRecord =
      (if e.count ≠ 0 then present
      else if p.reports then
        some { id := s.hm.nextId, number := s.hm.matrixNumber, expected := t.hm.expected, done := 0, failed := 0,
               skipped := 0, isPartial := decide (z.sync ≠ .locked), lastCycle := 0, inFlight := 0 }
      else none) ∧
    t.hm.matrixNumber = if e.count = 0 ∧ p.reports then (s.hm.matrixNumber + 1) % 256 else s.hm.matrixNumber := by
  intro present closing t
  have reports : v.reportsOn = p.reports := by
    unfold State.reportsOn
    rw [h.sc, hp]
    rfl
  obtain ⟨closed, opened, number⟩ := v.handedOn_records e (decide follows)
  have found : v.hm.closed = s.hm.closed ∧ v.hm.openRecord = s.hm.openRecord ∧ v.hm.nextId = s.hm.nextId ∧
      v.hm.matrixNumber = s.hm.matrixNumber := by
    rw [h.hm]
    exact ⟨rfl, rfl, rfl, rfl⟩
  obtain ⟨vclosed, vopen, vid, vnumber⟩ := found
  rw [vclosed] at closed
  rw [vopen, vid, vnumber, reports, h.sc, ← v.handedOn_expected e (decide follows)] at opened
  rw [vnumber, reports] at number
  have ends (hc : e.count = 0) : v.hm.closing (!decide follows) = closing := by
    rw [h.closing, HealthMonitor.closing_eq s.hm (decide follows) e.count (z.sync = .locked ∧ e.count ≠ 0)
      fun hb => hb.2 hc]
    simp only [closing, present, if_pos hc, decide_not]
  refine ⟨?_, closed.trans ?_, opened.trans ?_, number⟩
  · unfold State.edgeReports
    split
    · rename_i hc
      rw [ends hc]
    · rfl
  · split
    · rename_i hc
      rw [ends hc]
    · rfl
  · simp only [present, decide_not]
    rfl

/-- What the end of the step leaves of the machine as the edge has been handed on. -/
theorem State.handedOn_fields {v t : State} {e : Edge} {follows : Bool}
    (h : ∃ ew os n ps, t = { v.handedOn e follows with pairs := ps, ew := ew, outputs := os, free := n }) :
    (t.sc = v.sc ∧ t.active = v.active ∧ t.edit = v.edit ∧ t.session = v.session ∧ t.dev = v.dev ∧ t.rings = v.rings ∧
      t.slotQueue = v.slotQueue) ∧
    t.hm = (v.handedOn e follows).hm ∧ t.lanes = (v.handedOn e follows).lanes ∧
      t.cycle = (v.handedOn e follows).cycle := by
  obtain ⟨ew, os, n, ps, rfl⟩ := h
  exact ⟨v.handedOn_keeps e follows, rfl, rfl, rfl⟩

/-- Settles O60: what the whole edge leaves, field by field, and the arithmetic of its measurement. -/
theorem edgesSwapMeasureAndReport : Obligations.EdgesSwapMeasureAndReport := by
  unfold Obligations.EdgesSwapMeasureAndReport
  refine ⟨fun c s p own e h => ?_, fun a b n ha hb => cycleSixteenths_spec a b n ha hb, fun sixteenths bm hbm => ?_⟩
  · intro follows after elected displaced resigned limit measured swaps present closing
    obtain ⟨x, steps⟩ := h.exec
    obtain ⟨hs, hp, hy, -⟩ := h
    obtain ⟨t, ht⟩ : ∃ t, t = ((s.withSending x).work.takeEdge p own e).finish := ⟨_, rfl⟩
    rw [← ht] at steps
    obtain ⟨z, v, trimmed, unmeasured, folded, tables, final, hands, posts, level⟩ :=
      State.edge_finish ht (State.serving_not_fatal hs) hp
    have state : (s.withSending x).edgeState p e = after := State.edgeState_eq (s := s) hy
    have measures : (s.withSending x).measure p e (decide (after = .locked)) = measured := s.measure_eq p e after
    rw [state, measures] at unmeasured folded
    rw [state] at trimmed tables hands posts
    have planned : z.plan = some p := trimmed.time.2.2.2.2.1.trans hp
    obtain ⟨sync, count, time, opening, plan, localTime, stuLength, stuLeft, -⟩ := trimmed.time
    obtain ⟨role, kept, -⟩ := trimmed.role
    obtain ⟨⟨tsc, tactive, tedit, tsession, tdev, trings, tqueue⟩, thm, tlanes, tcycle⟩ := State.handedOn_fields
      (show ∃ ew os n ps, t = { v.handedOn e (decide follows) with pairs := ps, ew := ew, outputs := os, free := n } from
        final)
    rw [tables.sc] at tsc
    have texpected : t.hm.expected = v.hm.expected := by
      rw [thm]
      exact v.handedOn_expected e (decide follows)
    obtain ⟨ready, closed, opened, number⟩ := tables.records planned e follows
    rw [← thm, sync] at opened closed
    rw [sync] at ready
    rw [← thm] at number
    have after_ : v.sc.sync = after := by rw [tables.sc, sync]
    have gives : v.gaveUp = if after = .locked then s.fourthGiveUps.map fun ref => ⟨ref, .laneNoGap, 0⟩ else [] := by
      unfold State.gaveUp
      rw [after_, tables.fourthGiveUps]
      rfl
    rw [gives] at hands
    change Posts _ _ _ (v.edgeReports e (decide follows) ++ _) at posts
    rw [ready] at posts
    have measured_some (d : Int) (hm : measured = some d) := State.measure_some (s := s) (p := p) (e := e)
      (b := decide (after = .locked)) (by rw [show s.measure p e _ = measured from measures, hm]; exact nofun)
    refine ⟨t, steps, by rw [tsc]; exact sync, by rw [tsc]; exact count, by rw [tsc]; exact time, by rw [tsc]; exact role,
      fun hm => ?_, fun he => by rw [tsc]; exact kept he, fun d hm ht => ?_, fun d hm ht => ?_, fun ref hc hw => ?_,
      fun hk => ?_, fun l => ?_, hands, ?_, ?_, number, level, ?_, by rw [tsc]; exact opening, ?_,
      by rw [tsc]; exact plan, by rw [tsc]; exact localTime, by rw [tsc]; exact stuLength, by rw [tsc]; exact stuLeft,
      ?_, ?_, ?_⟩
    · have same := unmeasured hm
      rw [tsc, same]
      exact ⟨rfl, rfl, rfl⟩
    · obtain ⟨hr, -, he⟩ := measured_some d hm
      rw [tsc]
      exact ((folded d hm).of_measured hr he).1 ht
    · obtain ⟨hr, -, he⟩ := measured_some d hm
      rw [tsc]
      exact ((folded d hm).of_measured hr he).2 ht
    · exact (tables.swapped hw (by rw [show (s.withSending x).pendingCommit = _ from hc]; exact nofun)).2 t tactive tedit
        tsession texpected
    · exact (tables.kept hk).2 t tactive tedit tsession texpected
    · have inFlight : v.lanes[l].inFlight = if swaps ∧ s.pendingCommit ≠ none then s.lanes[l].inFlight.map (afterSwap s)
          else s.lanes[l].inFlight := by
        by_cases hw : swaps ∧ s.pendingCommit ≠ none
        · rw [if_pos hw]
          exact (tables.swapped hw.1 hw.2).1 l
        · rw [if_neg hw, (tables.kept ((not_and_or.1 hw).symm.imp_left not_not.1)).1]
          rfl
      rw [show t.lanes[l] = (v.handedOn e (decide follows)).lanes[l] from congrArg (fun ls : Vector Lane 8 => ls[l]) tlanes,
        State.handedOn_lane, after_, tables.queue l, inFlight]
      rfl
    · exact closed
    · exact opened
    · rw [tcycle, State.handedOn_cycle, after_, thm, tactive]
    · have folds : (s.withSending x).measureEvents e z ((s.withSending x).edgeSync own e after) =
          if measured = none ∨ t.sc.trimState = s.sc.trimState then []
          else [trimEvent s e.count t.sc.trimState t.sc.trim] := by
        unfold State.measureEvents
        rw [tsc]
        cases hm : measured with
        | none => rw [if_pos (by rw [unmeasured hm]), if_pos (.inl rfl)]
        | some d =>
          obtain ⟨hr, -, he⟩ := measured_some d hm
          rw [(State.edgeSync_measured (s := s.withSending x) (own := own) (after := after) hr he).1]
          simp only [reduceCtorEq, false_or]
          rfl
      rw [folds, show healthChange (s.withSending x) t = healthChange s t from rfl,
        show syncEvents (s.withSending x) e.count after (s.withSending x).sc.sync.edgeCause.code =
          syncEvents s e.count after s.sc.sync.edgeCause.code from rfl] at posts
      have last : Posts s t _ _ := posts
      convert last using 4
      · rfl
      · cases s.sc.sync <;> rfl
      · rfl
    · rw [tdev, tables.dev]
      rfl
    · rw [trings, tables.rings]
      rfl
    · rw [tqueue, tables.slotQueue]
      rfl
  · intro exact_ d
    have nearest := roundHalfAway_spec exact_ (b := 16 * bm) (by omega)
    push_cast at nearest
    exact ⟨by exact_mod_cast nearest.1, fun h => by exact_mod_cast nearest.2 (by exact_mod_cast h)⟩

end Sys2Proof.Machine

namespace Sys2Proof.Machine

set_option Elab.async false

/-! ### The edges of another unit and of the unit itself (R101, R109, R112) -/

/-- A taken edge, but for the events, the records and the lanes. -/
theorem State.edge_leaves {s t : State} {p : Plan} {own : Bool} {e : Edge} (ht : t = (s.work.takeEdge p own e).finish)
    (hd : s.dev ≠ .fatal) (hp : s.sc.plan = some p) :
    t.sc.TrimmedFrom (s.edgeSync own e (s.edgeState p e)) ∧
    (s.measure p e (decide (s.edgeState p e = .locked)) = none → t.sc = s.edgeSync own e (s.edgeState p e)) ∧
    (∃ last, Hands s t (s.edgeResigned own e ++ s.edgeSwaps (s.edgeState p e = .locked ∧ e.count = 0) ++ last)) ∧
    (s.edgeState p e = .locked → ∃ c, t.cycle = some c ∧ c.count = e.count ∧
      c.position = t.active.findIdx fun a => decide (e.count % a.entry.period = a.entry.phase)) ∧
    (s.edgeState p e ≠ .locked → t.cycle = none) ∧
    (∀ ref, s.pendingCommit = some ref → e.count = 0 → s.edgeState p e = .locked → Swapped s t p) ∧
    (s.pendingCommit = none ∨ e.count ≠ 0 ∨ s.edgeState p e ≠ .locked → NotSwapped s t) ∧
    t.dev = s.dev ∧ t.rings = s.rings ∧ t.slotQueue = s.slotQueue := by
  obtain ⟨z, v, trimmed, unmeasured, -, tables, final, hands, -, -⟩ := State.edge_finish ht hd hp
  obtain ⟨⟨tsc, tactive, tedit, tsession, tdev, trings, tqueue⟩, thm, -, tcycle⟩ := State.handedOn_fields final
  have texpected : t.hm.expected = v.hm.expected := by
    rw [thm]
    exact v.handedOn_expected ..
  obtain ⟨sync, -⟩ := trimmed.time
  rw [tables.sc] at tsc
  rw [State.handedOn_cycle, tables.sc, sync, ← tactive] at tcycle
  rw [tsc]
  refine ⟨trimmed, unmeasured, ⟨_, hands⟩, fun hl => ?_, fun hl => ?_, fun ref hc h0 hl => ?_, fun hk => ?_,
    tdev.trans tables.dev, trings.trans tables.rings, tqueue.trans tables.slotQueue⟩
  · rw [if_pos hl] at tcycle
    exact ⟨_, tcycle, rfl, rfl⟩
  · rw [if_neg hl] at tcycle
    exact tcycle
  · exact (tables.swapped ⟨hl, h0⟩ (by rw [hc]; exact nofun)).2 t tactive tedit tsession texpected
  · refine (tables.kept (hk.imp_right fun hn => ?_)).2 t tactive tedit tsession texpected
    rintro ⟨hl, h0⟩
    exact hn.elim (fun h => h h0) fun h => h hl

theorem pack_rank_unit (rank unit : Nat) : pack [(rank, 0), (unit, 8)] = BitVec.ofNat 32 (rank + 256 * unit) := by
  simp [pack, Nat.mul_comm]

/-- A completion that is among those handed is among what its pair then owes. -/
theorem Hands.mem {s t : State} {cs : List Completion} {c : Completion} (h : Hands s t cs)
    (hs : s.pairs[c.ref.pair].serves = true) (hc : c ∈ cs) : c ∈ t.pairs[c.ref.pair].owed := by
  rw [h _ hs]
  exact List.mem_append_right _ (List.mem_filter.2 ⟨hc, decide_eq_true rfl⟩)

/-- The OK of a swap at an edge (R19). -/
theorem State.edgeSwaps_ok {s : State} {swaps : Prop} [Decidable swaps] {ref : CmdRef} (hw : swaps)
    (hc : s.pendingCommit = some ref) : ∃ c ∈ s.edgeSwaps swaps, c.ref = ref ∧ c.status = .ok := by
  unfold State.edgeSwaps swapCompletions
  rw [if_pos hw, hc]
  exact ⟨_, List.mem_flatMap.2 ⟨ref, by simp, List.mem_append_right _ (List.mem_singleton.2 rfl)⟩, rfl, rfl⟩

/-- The commit that a swap at an edge completes is owed by its pair. -/
theorem Hands.swap_ok {s t : State} {swaps : Prop} [Decidable swaps] {ref : CmdRef} {first last : List Completion}
    (h : Hands s t (first ++ s.edgeSwaps swaps ++ last)) (hw : swaps) (hc : s.pendingCommit = some ref)
    (hs : s.pairs[ref.pair].serves = true) : ∃ c ∈ t.pairs[ref.pair].owed, c.ref = ref ∧ c.status = .ok := by
  obtain ⟨c, mem, rfl, ok⟩ := State.edgeSwaps_ok hw hc
  exact ⟨c, h.mem hs (List.mem_append_left _ (List.mem_append_right _ mem)), rfl, ok⟩

/-- The sync state after an edge, case by case (R112). -/
theorem State.edgeState_cases {s : State} {p : Plan} {e : Edge} (hy : s.sc.sync ≠ .off) :
    (s.sc.sync = .unsynced → s.edgeState p e = .acquiring) ∧
    (s.sc.sync ≠ .unsynced → e.count = (s.sc.cycleCount + 1) % p.matrix → s.edgeState p e = .locked) ∧
    (s.sc.sync ≠ .unsynced → e.count ≠ (s.sc.cycleCount + 1) % p.matrix → s.edgeState p e = .acquiring) := by
  rw [State.edgeState_eq hy]
  refine ⟨fun h => if_pos (.inl h), fun hu hf => if_neg ?_, fun _ hf => if_pos (.inr hf)⟩
  exact not_or.2 ⟨hu, not_not.2 hf⟩

/-- An edge that leads, freezes the trim or restarts the time is not measured (R118). -/
theorem State.measure_none {s : State} {p : Plan} {e : Edge} {b : Bool}
    (h : s.sc.role ≠ .leader → s.sc.trimState ≠ .frozen → e.restart = false → False) : s.measure p e b = none := by
  by_contra hm
  obtain ⟨hr, ht, he⟩ := State.measure_some hm
  exact h hr ht he

/-- Settles O43: what another unit's beacon leaves of the controller, and of the tables and the Dispatcher. -/
theorem validBeaconIsTakenAsAnEdge : Obligations.ValidBeaconIsTakenAsAnEdge := by
  unfold Obligations.ValidBeaconIsTakenAsAnEdge
  intro s p instant bits hp hr hs hy hf follows
  obtain ⟨e, he⟩ : ∃ e : Edge, e = ⟨instant, beaconCount bits, beaconRestart bits, beaconRank bits, beaconUnit bits⟩ := ⟨_, rfl⟩
  have taken := State.beaconReceived_taken hs hp hy hr hf
  rw [← he] at taken
  obtain ⟨t, ht⟩ : ∃ t, t = (s.work.takeEdge p false e).finish := ⟨_, rfl⟩
  rw [← ht] at taken
  obtain ⟨trimmed, unmeasured, ⟨last, hands⟩, cycle, idle, swapped, kept, dev, rings, slotQueue⟩ :=
    State.edge_leaves ht (State.serving_not_fatal hs) hp
  obtain ⟨sync, count, time, -, -, localTime, -, -, leader, receiving, -⟩ := trimmed.time
  obtain ⟨role, -, hold, resign⟩ := trimmed.role
  obtain ⟨unsynced, locked, breaks⟩ := State.edgeState_cases (p := p) (e := e) hy
  have ecount : e.count = beaconCount bits := by rw [he]
  have erank : e.rank = beaconRank bits := by rw [he]
  have eunit : e.unit = beaconUnit bits := by rw [he]
  have einstant : e.instant = instant := by rw [he]
  rw [ecount] at count locked breaks kept swapped cycle hands
  rw [einstant] at time
  rw [erank, eunit] at leader
  refine ⟨t, ?_⟩
  rw [sync]
  refine ⟨taken, count, time, localTime, leader, receiving, hold.trans (Bool.and_false _), unsynced, locked, breaks,
    ?_, fun hl => ?_, fun hh => ⟨?_, fun ref href hserve => ?_⟩, fun hl => ?_, idle, fun ref hc h0 hl => ?_, kept, dev,
    rings, slotQueue⟩
  · simpa using role
  · rw [unmeasured (State.measure_none fun h _ _ => h hl), State.edgeSync_other]
    exact ⟨rfl, rfl⟩
  · rw [resign]
    exact if_pos ⟨rfl, hh⟩
  · have handed := State.edgeResigned_other.trans (if_pos hh) ▸ hands _ hserve
    rw [href] at handed
    simp only [Option.toList_some, List.map_cons, List.map_nil, List.cons_append, List.nil_append,
      List.filter_cons, decide_true, if_true, erank, eunit, pack_rank_unit] at handed
    exact ⟨_, handed⟩
  · obtain ⟨c, hand, ccount, cposition⟩ := cycle hl
    refine ⟨c, hand, ccount, fun i a hi ha => ?_⟩
    obtain ⟨bound, rfl⟩ := List.getElem?_eq_some_iff.1 ha
    rw [cposition] at hi
    have skipped := List.not_of_lt_findIdx hi
    unfold Entry.fires
    rw [ccount]
    exact Bool.not_eq_true _ ▸ skipped
  · exact ⟨swapped ref hc h0 hl, hands.swap_ok ⟨hl, h0⟩ hc⟩

/-- Settles O44: what the unit's own beacon leaves when it has been sent whole. -/
theorem ownBeaconElectsItsSender : Obligations.OwnBeaconElectsItsSender := by
  unfold Obligations.OwnBeaconElectsItsSender
  intro s p b hp hb hs
  refine ⟨fun hc => congrArg Host.Outcome.next (State.ownBeaconEnd_early hs hb hc), fun hc =>
    ⟨fun hn => congrArg Host.Outcome.next (State.ownBeaconEnd_left hs hp hb hc hn), fun hn hy => ?_⟩⟩
  obtain ⟨e, he⟩ : ∃ e : Edge, e = ⟨b.instant, b.count, b.restart, p.rank, p.unit⟩ := ⟨_, rfl⟩
  obtain ⟨q, hq⟩ : ∃ q, q = s.withSending none := ⟨_, rfl⟩
  have taken := State.ownBeaconEnd_taken hs hp hb hc hn hy
  rw [← he, ← hq] at taken
  obtain ⟨t, ht⟩ : ∃ t, t = (q.work.takeEdge p true e).finish := ⟨_, rfl⟩
  rw [← ht] at taken
  have qp : q.sc.plan = some p := by rw [hq]; exact hp
  have qy : q.sc.sync ≠ .off := by rw [hq]; exact hy
  have qd : q.dev ≠ .fatal := by rw [hq]; exact State.serving_not_fatal hs
  obtain ⟨trimmed, unmeasured, ⟨last, hands⟩, -, idle, swapped, kept, dev, rings, -⟩ := State.edge_leaves ht qd qp
  obtain ⟨sync, count, time, -, -, localTime, -, -, leader, -, sending⟩ := trimmed.time
  obtain ⟨role, -⟩ := trimmed.role
  obtain ⟨unsynced, locked, breaks⟩ := State.edgeState_cases (p := p) (e := e) qy
  have ecount : e.count = b.count := by rw [he]
  have erestart : e.restart = b.restart := by rw [he]
  rw [ecount] at count locked breaks kept swapped hands
  rw [erestart] at role
  have elected : b.restart = true → q.sc.role ≠ .leader → t.sc.trimState = .frozen ∧ t.sc.trim = q.sc.trim :=
    fun hr hl => by
      have restart := erestart.trans hr
      rw [unmeasured (State.measure_none fun _ _ h => nomatch restart.symm.trans h),
        State.edgeSync_elected ⟨restart, hl⟩]
      exact ⟨rfl, rfl⟩
  have restarted : b.restart = true → t.sc.role = .leader := fun hr => by
    rw [role]
    by_cases hl : q.sc.role = .leader
    · simp [hl]
    · rw [if_pos ⟨rfl, hr, hl⟩]
  have stays : b.restart = false → t.sc.role = q.sc.role := fun hr => by
    rw [role, hr]
    simp
  rw [he] at time leader
  subst hq
  refine ⟨t, ?_⟩
  rw [sync]
  exact ⟨taken, sending, count, localTime, time, leader, restarted, stays, elected, unsynced, locked, breaks,
    fun ref hc h0 hl => ⟨swapped ref hc h0 hl, hands.swap_ok ⟨hl, h0⟩ hc⟩, kept, idle, dev, rings⟩

end Sys2Proof.Machine
